-- ==== Sys2Proof/Word.lean ====
section
/-! DEFINITION. The words the block and its host exchange, by the names the spec uses for them. -/

namespace Sys2Proof

/-- One byte of the device buffer (20_memory R29). -/
abbrev Byte := BitVec 8

/-- One operand slot of a command word (30_encoding R56). -/
abbrev Slot := BitVec 16

/-- A PackedPixel, `RRRRRGGGGGGBBBBB` (30_encoding R51). -/
abbrev Pixel := BitVec 16

/-- A byte offset, 0 to 126 (30_encoding R55). -/
abbrev Offset := BitVec 7

/-- A command word `CMD` (30_encoding R56). -/
abbrev Cmd := BitVec 64

/-- A response word `RSP` (30_encoding R58). -/
abbrev Rsp := BitVec 32

/-- The result field `RES` of a response (30_encoding R58). -/
abbrev Res := BitVec 24

end Sys2Proof
end

