-- ==== Sys2Proof/Syntax.lean ====
section
/-! DEFINITION. The six commands of the block (30_encoding R60), one constructor per row of the opcode table. -/

namespace Sys2Proof

/-- A command with its operands read from their slots (30_encoding R57): channels, coordinates and rotations are
integers, checked when the command executes; a PackedPixel is a 16-bit word. -/
inductive Instr where
  /-- `PACK r, g, b` (40_codec R70). -/
  | pack (r g b : Int)
  /-- `UNPACK p` (40_codec R71). -/
  | unpack (p : Pixel)
  /-- `BOFF x, y, rot` (41_rotator R79); `rot` in degrees. -/
  | boff (x y rot : Int)
  /-- `BOFFR x, y` (41_rotator R80). -/
  | boffr (x y : Int)
  /-- `SETROT rot` (41_rotator R81); `rot` in degrees. -/
  | setrot (rot : Int)
  /-- `GETROT` (41_rotator R82). -/
  | getrot
  deriving DecidableEq, Repr

end Sys2Proof
end

