-- ==== Sys2Proof/WellFormed.lean ====
section
/-! DEFINITION. Which commands can be presented at the command port: every signed operand fits its 16-bit slot
(30_encoding R57). Being out of an operation's own range is no ill-formedness: such a command runs and is answered
with an error. -/

namespace Sys2Proof

/-- `v` fits a slot read as a 16-bit two's-complement integer: −32768 to 32767 (30_encoding R57). -/
def slotFits (v : Int) : Bool := decide (-32768 ≤ v) && decide (v ≤ 32767)

/-- Every signed operand of the command fits its slot. -/
def Instr.wellFormed : Instr → Bool
  | .pack r g b => slotFits r && slotFits g && slotFits b
  | .unpack _ => true
  | .boff x y rot => slotFits x && slotFits y && slotFits rot
  | .boffr x y => slotFits x && slotFits y
  | .setrot rot => slotFits rot
  | .getrot => true

end Sys2Proof
end

