-- ==== Sys2Proof/Decode.lean ====
section
/-! DEFINITION. The command word (30_encoding R56, R57), the opcode map (R60), the decoder (R61, R62), total on all
2^64 words, and the encoder. -/

namespace Sys2Proof

/-! ### The fields of a command word (30_encoding R56) -/

/-- `OPC`, bits 63:56. -/
def opcField (w : Cmd) : BitVec 8 := w.extractLsb' 56 8

/-- `RSV`, bits 55:48. -/
def rsvField (w : Cmd) : BitVec 8 := w.extractLsb' 48 8

/-- Slot `A`, bits 47:32. -/
def slotA (w : Cmd) : Slot := w.extractLsb' 32 16

/-- Slot `B`, bits 31:16. -/
def slotB (w : Cmd) : Slot := w.extractLsb' 16 16

/-- Slot `C`, bits 15:0. -/
def slotC (w : Cmd) : Slot := w.extractLsb' 0 16

/-- A slot read as a 16-bit two's-complement integer, `sext_16(slot)` (30_encoding R57). -/
def sext16 (v : Slot) : Int := v.toInt

/-! ### The opcode map (30_encoding R60) -/

/-- The six mnemonics. -/
inductive Mnemonic where
  | PACK
  | UNPACK
  | BOFF
  | BOFFR
  | SETROT
  | GETROT
  deriving DecidableEq, Repr

/-- The `OPC` column. -/
def Mnemonic.opcode : Mnemonic → BitVec 8
  | .PACK => 0x01
  | .UNPACK => 0x02
  | .BOFF => 0x03
  | .BOFFR => 0x04
  | .SETROT => 0x05
  | .GETROT => 0x06

/-- The `match` column. -/
def Mnemonic.matchBits : Mnemonic → Cmd
  | .PACK => 0x0100_0000_0000_0000
  | .UNPACK => 0x0200_0000_0000_0000
  | .BOFF => 0x0300_0000_0000_0000
  | .BOFFR => 0x0400_0000_0000_0000
  | .SETROT => 0x0500_0000_0000_0000
  | .GETROT => 0x0600_0000_0000_0000

/-- The `mask` column. -/
def Mnemonic.maskBits : Mnemonic → Cmd
  | .PACK => 0xFFFF_0000_0000_0000
  | .UNPACK => 0xFFFF_FFFF_FFFF_0000
  | .BOFF => 0xFFFF_0000_0000_0000
  | .BOFFR => 0xFFFF_0000_0000_FFFF
  | .SETROT => 0xFFFF_FFFF_FFFF_0000
  | .GETROT => 0xFFFF_FFFF_FFFF_FFFF

/-- A word is the operation `m` exactly when `w & mask = match`. -/
def Mnemonic.accepts (m : Mnemonic) (w : Cmd) : Bool := w &&& m.maskBits == m.matchBits

/-- All rows of the opcode map. -/
def Mnemonic.all : List Mnemonic := [.PACK, .UNPACK, .BOFF, .BOFFR, .SETROT, .GETROT]

/-- The row a command belongs to. -/
def Instr.mnemonic : Instr → Mnemonic
  | .pack _ _ _ => .PACK
  | .unpack _ => .UNPACK
  | .boff _ _ _ => .BOFF
  | .boffr _ _ => .BOFFR
  | .setrot _ => .SETROT
  | .getrot => .GETROT

/-! ### The decoder (30_encoding R61) -/

/-- Why a word is no command: the cases (a), (b) and (c) of 30_encoding R62. -/
inductive Reject where
  /-- (a) `OPC` is 0x00 or 0x07 to 0xFF. -/
  | unassignedOpcode
  /-- (b) `RSV` is not zero. -/
  | reservedField
  /-- (c) a slot that must be 0 is not zero. -/
  | unusedSlot
  deriving DecidableEq, Repr

/-- The case of 30_encoding R62 for a word that matches no row. DESIGN CHOICE, log entry 21: where several cases apply,
the first of (a), (b), (c). -/
def whyIllegal (w : Cmd) : Reject :=
  if (Mnemonic.all.map Mnemonic.opcode).contains (opcField w) then
    if rsvField w = 0 then .unusedSlot else .reservedField
  else .unassignedOpcode

/-- The decoder of 30_encoding R61, row by row. -/
def decode (w : Cmd) : Except Reject Instr :=
  if Mnemonic.PACK.accepts w then .ok (.pack (sext16 (slotA w)) (sext16 (slotB w)) (sext16 (slotC w)))
  else if Mnemonic.UNPACK.accepts w then .ok (.unpack (slotC w))
  else if Mnemonic.BOFF.accepts w then .ok (.boff (sext16 (slotA w)) (sext16 (slotB w)) (sext16 (slotC w)))
  else if Mnemonic.BOFFR.accepts w then .ok (.boffr (sext16 (slotA w)) (sext16 (slotB w)))
  else if Mnemonic.SETROT.accepts w then .ok (.setrot (sext16 (slotC w)))
  else if Mnemonic.GETROT.accepts w then .ok .getrot
  else .error (whyIllegal w)

/-- The word of a table row given by its number (bit 0 the least significant, log entry 16): `none` where the row is
wider than the one command length of 30_encoding R64. -/
def tableWord (nbits w : Nat) : Option Cmd :=
  if nbits ≤ 64 then some (BitVec.ofNat 64 (w % 2 ^ nbits)) else none

/-- What the decoder reads from a table row's word. -/
def decodeTableWord (nbits w : Nat) : Option Instr :=
  match tableWord nbits w with
  | some cmd => (decode cmd).toOption
  | none => none

/-! ### The encoder (30_encoding R56, R57, R60) -/

/-- The word with these fields, `RSV` zero. -/
def commandWord (opc : BitVec 8) (a b c : Slot) : Cmd := opc ++ 0#8 ++ a ++ b ++ c

/-- The slot of an integer operand, `value mod 2^16` (30_encoding R65). -/
def toSlot (v : Int) : Slot := BitVec.ofInt 16 v

/-- The word of a command: the operands in the slots of 30_encoding R57, every other slot zero. -/
def encode : Instr → Cmd
  | .pack r g b => commandWord Mnemonic.PACK.opcode (toSlot r) (toSlot g) (toSlot b)
  | .unpack p => commandWord Mnemonic.UNPACK.opcode 0 0 p
  | .boff x y rot => commandWord Mnemonic.BOFF.opcode (toSlot x) (toSlot y) (toSlot rot)
  | .boffr x y => commandWord Mnemonic.BOFFR.opcode (toSlot x) (toSlot y) 0
  | .setrot rot => commandWord Mnemonic.SETROT.opcode 0 0 (toSlot rot)
  | .getrot => commandWord Mnemonic.GETROT.opcode 0 0 0

end Sys2Proof
end

