-- ==== Sys2Proof/Config.lean ====
section
/-! DEFINITION. What is fixed for one machine: the parameters of 00_scope R9, the open parameters of R10, and the
free values, which no proof can see. -/

namespace Sys2Proof

/-- Columns, and rows, of the grid (00_scope R9 `GRID`). -/
def Config.grid : Nat := 8

/-- Largest valid coordinate (00_scope R9 `COORD_MAX`). -/
def Config.coordMax : Int := 7

/-- Largest valid channel value (00_scope R9 `CH_MAX`). -/
def Config.channelMax : Int := 255

/-- Bytes of the device buffer (00_scope R9 `FRAME_BYTES`). -/
def Config.frameBytes : Nat := 128

/-- Bytes of one record (00_scope R9 `REC_BYTES`). -/
def Config.recordBytes : Nat := 2

/-- How a port operation ends (20_memory R41): it succeeds, or the OS fails it with `DeviceUnavailable`. Bit `a` of
`landed` says whether byte `a` of a failed WRITEALL reached the device; a failed record write, or a failed read, leaves
the buffer alone whatever `landed` says. -/
inductive PortOutcome where
  | ok
  | unavailable (landed : BitVec 128)
  deriving DecidableEq, Repr, Inhabited

/-- FREE VALUE: the outcome of the n-th port operation that the script in State does not decide (20_memory R41: "an
oracle it does not constrain"). Log entry 4. -/
opaque Config.freePortOutcome : Nat → PortOutcome

/-- FREE VALUE: what byte `a` of the device holds before anything has written it (10_state R28: "arbitrary value").
Log entry 3. -/
opaque Config.initialByte : Nat → Byte

/-- When SETPIXELS with a generator validates the colours (00_scope R10 `GEN_VALIDATE`, 45_host_sequences R97). -/
inductive GenValidate where
  | eager
  | lazy
  deriving DecidableEq, Repr

/-- The open parameters of 00_scope R10. They never change during a run. Log entries 8, 9 and 10. -/
structure Params where
  /-- `ERR_ORDER` for BOFF: the coordinate is checked before the rotation (60_exceptions R117 item 2). -/
  boffCoordinateFirst : Bool
  /-- `ERR_ORDER` for SETPIXEL: the colour is checked before the coordinate (R117 item 3). -/
  setPixelColourFirst : Bool
  /-- `ERR_ORDER` for SETPIXELS with a grid: the shape is checked before the colours (R117 item 4). -/
  setPixelsShapeFirst : Bool
  /-- `GEN_VALIDATE`. -/
  genValidate : GenValidate
  /-- `CELL_ORDER`: the cells, numbered `y·8 + x`, in the order of the 64 record writes (45_host_sequences R96). -/
  cellOrder : List (Fin 64)
  deriving DecidableEq, Repr

/-- The 64 cells in row-major order, y outer and x inner (decision D14). -/
def Config.rowMajor : List (Fin 64) := List.finRange 64

/-- The values 00_scope R10 gives the open parameters. -/
def Params.spec : Params where
  boffCoordinateFirst := true
  setPixelColourFirst := true
  setPixelsShapeFirst := true
  genValidate := .eager
  cellOrder := Config.rowMajor

/-- `CELL_ORDER` is an order of all 64 cells: each stands in it exactly once. -/
abbrev Params.wf (p : Params) : Prop := p.cellOrder.length = 64 ∧ p.cellOrder.Nodup

end Sys2Proof
end

