-- ==== Sys2Proof/Machine/Requests.lean ====
section
/-! DEFINITION. The value types of 00_scope R13, the error kinds of 60_exceptions R107, and what the host can be asked
to do: requests, host sequences and the micro-operations they expand into (30_encoding R66). -/

namespace Sys2Proof.Machine

/-- A rotation, exactly four values (10_state R18, R19). -/
inductive Rotation where
  | r0
  | r90
  | r180
  | r270
  deriving DecidableEq, Repr

/-- A Color with valid channels, 8 bits each (30_encoding R52). -/
structure Color where
  r : Byte
  g : Byte
  b : Byte
  deriving DecidableEq, Repr

/-- The six error kinds (60_exceptions R107). -/
inductive ErrorKind where
  | invalidColor
  | invalidCoordinate
  | invalidRotation
  | invalidFrameShape
  | deviceUnavailable
  | illegalCommand
  deriving DecidableEq, Repr

/-- What a status field says (30_encoding R59): OK, one of the kinds, or a code 7 to 15, which a host takes as a
failure (93_implementation_defined part 3). -/
inductive Status where
  | ok
  | error (e : ErrorKind)
  | reserved
  deriving DecidableEq, Repr

/-- A value a caller hands to the host where an integer is due: any integer, or something that is none
(60_exceptions R108). Log entry 13. -/
inductive Arg where
  | int (v : Int)
  | notInteger
  deriving DecidableEq, Repr

/-- A colour as a caller gives it: a list of channels, of any length (60_exceptions R108, "wrong arity"). -/
abbrev RawColor := List Arg

/-- The argument of SETPIXELS, "a tagged union/variant" (45_host_sequences R97): a grid of any shape, row by row, or
a generator. The generator is its graph: the colour of cell (x, y) stands at `y·8 + x`. Log entry 11. -/
inductive FrameSource where
  | grid (rows : List (List RawColor))
  | generator (cells : Vector RawColor 64)
  deriving DecidableEq, Repr

/-- The host sequences of 45_host_sequences. -/
inductive HostOp where
  /-- `WRITERECORD off, p` (R89). -/
  | writeRecord (off : Nat) (p : Pixel)
  /-- `READALL` (R90). -/
  | readAll
  /-- `WRITEALL buf` (R91). -/
  | writeAll (buf : Vector Byte 128)
  /-- `READAT off, len` (R92). -/
  | readAt (off len : Nat)
  /-- `WRITEAT off, bytes` (R92). -/
  | writeAt (off : Nat) (bytes : List Byte)
  /-- `GETPIXEL x, y` (R93). -/
  | getPixel (x y : Arg)
  /-- `SETPIXEL x, y, color` (R94). -/
  | setPixel (x y : Arg) (color : RawColor)
  /-- `GETPIXELS` (R95). -/
  | getPixels
  /-- `SETPIXELS` (R96, R97). -/
  | setPixels (source : FrameSource)
  /-- `CLEAR` (R98). -/
  | clear
  /-- `GETROTATION` (R99). -/
  | getRotation
  /-- `SETROTATION r` (R100). -/
  | setRotation (r : Arg)
  /-- `FLIPH` (R102). -/
  | flipH
  /-- `FLIPV` (R103). -/
  | flipV
  deriving DecidableEq, Repr

/-- One item of the host's list (10_state R22): a word for the command port, or a sequence. -/
inductive Request where
  | command (w : Cmd)
  | sequence (op : HostOp)
  deriving DecidableEq, Repr

/-- Where a PACK of a sequence takes its colour from: the caller's value, or a cell of the Frame that was read. -/
inductive ColorSource where
  | given (c : RawColor)
  | cell (k : Fin 64)
  deriving DecidableEq, Repr

/-- Which result a sequence returns to its caller. -/
inductive Return where
  | nothing
  | color
  | frame
  | rotation
  | bytes
  | record
  deriving DecidableEq, Repr

/-- One step of a host sequence: a block command with the test of its status (70_reset R137), a port operation, a
check, or the end. Cells are numbered `y·8 + x`. -/
inductive MicroOp where
  /-- The check at the head of SETROTATION (R100). -/
  | checkRotation (r : Arg)
  /-- `BOFFR x, y`; the offset goes to `scratch.off`. -/
  | boffr (x y : Arg)
  /-- `PACK` of a colour; the word goes to `scratch.packs[k]`. -/
  | pack (source : ColorSource) (k : Fin 64)
  /-- `UNPACK` of the record of `scratch.buf` at `scratch.off`; the Color goes to `scratch.frame[k]`. -/
  | unpack (k : Fin 64)
  /-- `SETROT r`. -/
  | setrot (r : Arg)
  /-- `GETROT`; the result goes to `scratch.degrees`. -/
  | getrot
  /-- `WRITERECORD` of `scratch.packs[k]` at `scratch.off`. -/
  | writePack (k : Fin 64)
  /-- `WRITERECORD off, p` with the caller's values. -/
  | writeRecord (off : Nat) (p : Pixel)
  /-- `READALL`; the bytes go to `scratch.buf`. -/
  | readAll
  /-- `WRITEALL buf`. -/
  | writeAll (buf : Vector Byte 128)
  /-- `READAT off, len`; the record goes to `scratch.packs[0]`. -/
  | readAt (off len : Nat)
  /-- `WRITEAT off, bytes`. -/
  | writeAt (off : Nat) (bytes : List Byte)
  /-- The sequence raises an error of the host's own. -/
  | raise (e : ErrorKind)
  /-- The sequence is complete and returns to its caller. -/
  | done (r : Return)
  deriving DecidableEq, Repr

/-- What a sequence holds while it runs (10_state R26). -/
structure Scratch where
  off     : Offset
  degrees : BitVec 9
  buf     : Vector Byte 128
  frame   : Vector Color 64
  packs   : Vector Pixel 64
  deriving DecidableEq, Repr

/-- The scratch at the start of a sequence; the values are the model's choice and no sequence reads one before it
has written it (log entry 14). -/
def Scratch.empty : Scratch where
  off := 0
  degrees := 0
  buf := Vector.replicate 128 0
  frame := Vector.replicate 64 ⟨0, 0, 0⟩
  packs := Vector.replicate 64 0

/-- What a sequence that has ended reports to its caller (60_exceptions R115). -/
inductive Report where
  | done
  | color (c : Color)
  | frame (cells : Vector Color 64)
  | rotation (degrees : BitVec 9)
  | bytes (buf : Vector Byte 128)
  | record (p : Pixel)
  | error (e : ErrorKind)
  /-- The block answered with a status it never produces (93_implementation_defined part 3); not reached. -/
  | reservedStatus
  deriving DecidableEq, Repr

/-- A byte an external writer writes (20_memory R44): its address and its new value. -/
abbrev ByteWrite := BitVec 7 × Byte

/-- What external writers do while one port operation is under way (20_memory R38, R44): their writes, first one first,
and, for each byte of the buffer, how many of them come before the operation gets to that byte (0 past the end of the
list). The operation may get to the bytes in any order. Log entry 5. -/
structure Interference where
  writes : List ByteWrite
  before : List Nat
  deriving DecidableEq, Repr

/-- Nobody else writes while the operation is under way. -/
def Interference.none : Interference where
  writes := []
  before := []

/-- One entry of the environment's script: an external writer writes a byte between two steps of the host (20_memory
R44), the outcome of the host's next port operation (R41), or that outcome with external writes in the midst of the
operation (R38). Log entries 4 and 5. -/
inductive EnvEvent where
  | external (a : BitVec 7) (v : Byte)
  | port (o : PortOutcome)
  | portDuring (o : PortOutcome) (during : Interference)
  deriving DecidableEq, Repr

end Sys2Proof.Machine
end

