-- ==== Sys2Proof/Machine/State.lean ====
section
/-! DEFINITION. The state of the block, its host and the device buffer (10_state R17), the reasons a step can stop,
and the state after reset. -/

namespace Sys2Proof.Machine

/-- The device buffer: the bytes that have been written, addresses strictly rising; an address that is not listed
holds no value the model knows (log entry 3). -/
abbrev Memory := List Host.Cell

/-- The state. `rot` is the block's; `mem` the device's; `program`, `todo`, `scratch` the host's; `rsp` and `report`
are the outputs of the step just taken (log entry 1); `env`, `draws` and `params` are the model's own. -/
structure State where
  /-- ROT (10_state R18). -/
  rot     : Rotation
  /-- The response port: the word that answered the command of this step (30_encoding R58). -/
  rsp     : Option Rsp
  /-- `MEM[0..127]` (20_memory R29). -/
  mem     : Memory
  /-- The host's list, front first (10_state R22). -/
  program : List Request
  /-- The rest of the sequence in progress (45_host_sequences R87). -/
  todo    : List MicroOp
  /-- What the sequence in progress holds (10_state R26). -/
  scratch : Scratch
  /-- What the sequence that ended in this step reported (60_exceptions R115). -/
  report  : Option Report
  /-- The script of the environment (20_memory R41, R44). -/
  env     : List EnvEvent
  /-- How many free outcomes have been drawn (20_memory R41). -/
  draws   : Nat
  /-- The open parameters (00_scope R10). -/
  params  : Params
  deriving DecidableEq, Repr

/-- Why the machine stops with a fault. -/
inductive Fault where
  /-- Raised by a host sequence whose command the block does not answer. Safe: "Every command produces exactly one
  response" (30_encoding R58), so it is not reached. -/
  | noResponse
  deriving DecidableEq, Repr

/-- Why the model gives a form no meaning. -/
inductive Refusal where
  /-- Raised by `exec` for an instruction with no meaning yet. Safe. -/
  | notModelled (mnemonic : String)
  /-- Raised by WRITERECORD, READAT and WRITEAT at an odd offset or one above 126 (20_memory R37). Safe. -/
  | recordOffset
  /-- Raised by READAT and WRITEAT of another length than 2 (45_host_sequences R92). Safe. -/
  | accessLength
  deriving DecidableEq, Repr

/-- The state after reset (10_state R28, 70_reset R126): ROT is 0, no response is outstanding, no byte of the buffer
is known, the host has been given nothing to do. -/
def State.reset : State where
  rot := .r0
  rsp := none
  mem := []
  program := []
  todo := []
  scratch := Scratch.empty
  report := none
  env := []
  draws := 0
  params := Params.spec

/-! ### Updates of one field -/

def State.setRot (s : State) (v : Rotation) : State := { s with rot := v }

def State.setRsp (s : State) (v : Option Rsp) : State := { s with rsp := v }

def State.setMem (s : State) (v : Memory) : State := { s with mem := v }

def State.setProgram (s : State) (v : List Request) : State := { s with program := v }

def State.setTodo (s : State) (v : List MicroOp) : State := { s with todo := v }

def State.setScratch (s : State) (v : Scratch) : State := { s with scratch := v }

def State.setReport (s : State) (v : Option Report) : State := { s with report := v }

def State.setEnv (s : State) (v : List EnvEvent) : State := { s with env := v }

def State.setDraws (s : State) (v : Nat) : State := { s with draws := v }

end Sys2Proof.Machine
end

