-- ==== Sys2Proof/Machine/Flags.lean ====
section
/-! DEFINITION. The block has no flags (10_state R23). What it has in their place is the status of each response:
the response word (30_encoding R58) and the status codes (R59). -/

namespace Sys2Proof.Machine

/-- The status code of an error kind (30_encoding R59). -/
def ErrorKind.code : ErrorKind → BitVec 4
  | .invalidColor => 1
  | .invalidCoordinate => 2
  | .invalidRotation => 3
  | .invalidFrameShape => 4
  | .deviceUnavailable => 5
  | .illegalCommand => 6

/-- `ST`, bits 31:28. -/
def stField (w : Rsp) : BitVec 4 := w.extractLsb' 28 4

/-- Bits 27:24, always zero. -/
def zeroField (w : Rsp) : BitVec 4 := w.extractLsb' 24 4

/-- `RES`, bits 23:0. -/
def resField (w : Rsp) : Res := w.extractLsb' 0 24

/-- The response word with these fields (30_encoding R58). -/
def responseWord (st : BitVec 4) (res : Res) : Rsp := st ++ 0#4 ++ res

/-- `-> OK res`. -/
def okWord (res : Res) : Rsp := responseWord 0 res

/-- The response of a failing command: its code, and `RES = 0` (30_encoding R58). -/
def errorWord (e : ErrorKind) : Rsp := responseWord e.code 0

/-- What a host reads from the status field (30_encoding R59). -/
def statusOf (w : Rsp) : Status :=
  if stField w = 0 then .ok
  else if stField w = 1 then .error .invalidColor
  else if stField w = 2 then .error .invalidCoordinate
  else if stField w = 3 then .error .invalidRotation
  else if stField w = 4 then .error .invalidFrameShape
  else if stField w = 5 then .error .deviceUnavailable
  else if stField w = 6 then .error .illegalCommand
  else .reserved

end Sys2Proof.Machine
end

