-- ==== Sys2Proof/Machine/Operands.lean ====
section
/-! DEFINITION. The operand checks of the block (30_encoding R57), made on integers, with no masking, clamping or
wrapping before them; the rotation as a number of degrees (R54); and the checks the host makes on what a caller gives
it (60_exceptions R108 to R110). -/

namespace Sys2Proof.Machine

/-- A channel is valid in [0, 255] (30_encoding R52). -/
def channelOk (v : Int) : Bool := decide (0 ≤ v) && decide (v ≤ Config.channelMax)

/-- A coordinate is valid in [0, 7] (30_encoding R53). -/
def coordinateOk (v : Int) : Bool := decide (0 ≤ v) && decide (v ≤ Config.coordMax)

/-- The rotation of this many degrees: four values and no default (30_encoding R54). -/
def Rotation.ofDegrees (v : Int) : Option Rotation :=
  if v = 0 then some .r0
  else if v = 90 then some .r90
  else if v = 180 then some .r180
  else if v = 270 then some .r270
  else none

/-- The number of degrees, the only form in which a rotation is read (10_state R18). -/
def Rotation.degrees : Rotation → BitVec 9
  | .r0 => 0
  | .r90 => 90
  | .r180 => 180
  | .r270 => 270

/-- An argument the host can put in a signed slot (60_exceptions R108, R109). -/
def Arg.presentable : Arg → Option Int
  | .int v => if slotFits v then some v else none
  | .notInteger => none

/-- A colour the host can present to PACK: exactly three channels, each an integer that fits its slot (R108). -/
def RawColor.presentable : RawColor → Option (Int × Int × Int)
  | [r, g, b] =>
    match r.presentable, g.presentable, b.presentable with
    | some r, some g, some b => some (r, g, b)
    | _, _, _ => none
  | _ => none

/-- The rotation a caller asks SETROTATION for (45_host_sequences R100, 60_exceptions R110). -/
def Arg.rotation : Arg → Option Rotation
  | .int v => Rotation.ofDegrees v
  | .notInteger => none

/-- A Color as the channels a caller would give for it. -/
def Color.toRaw (c : Color) : RawColor := [.int c.r.toNat, .int c.g.toNat, .int c.b.toNat]

/-- The column `x` of a cell numbered `y·8 + x` (00_scope R13). -/
def cellX (k : Fin 64) : Nat := k.val % 8

/-- The row `y` of a cell numbered `y·8 + x`. -/
def cellY (k : Fin 64) : Nat := k.val / 8

end Sys2Proof.Machine
end

