-- ==== Sys2Proof/Machine/Ops.lean ====
section
/-! DEFINITION. The shared operations: the device buffer (20_memory), answering a command, raising an error at the
block and stopping a host sequence (60_exceptions R114, R115). -/

namespace Sys2Proof.Machine

/-! ### The device buffer -/

/-- The canonical form: addresses strictly rising, all of them addresses that exist (20_memory R31). An unlisted
address holds no value, so no entry can repeat what it reads as. -/
abbrev Memory.wf (m : Memory) : Prop := m.Pairwise (fun c d => c.1 < d.1) ∧ ∀ c ∈ m, c.1 < Config.frameBytes

/-- The byte that has been written at `a`, if any has. -/
def Memory.stored : Memory → Nat → Option Byte
  | [], _ => none
  | (b, v) :: m, a => if b = a then some v else Memory.stored m a

/-- What an unlisted address reads as: the free value of 10_state R28 (log entry 3). -/
def Memory.unlisted (a : Nat) : Byte := Config.initialByte a

/-- `MEM[a]`, what a read of one byte yields. -/
def Memory.byteAt (m : Memory) (a : Nat) : Byte := (Memory.stored m a).getD (Memory.unlisted a)

/-- `MEM[a] <- v`, keeping the canonical form. -/
def Memory.setByte : Memory → Nat → Byte → Memory
  | [], a, v => [(a, v)]
  | (b, u) :: m, a, v =>
    if a < b then (a, v) :: (b, u) :: m
    else if a = b then (a, v) :: m
    else (b, u) :: Memory.setByte m a v

/-- Bytes written at rising addresses from `a`. -/
def Memory.setBytes : Memory → Nat → List Byte → Memory
  | m, _, [] => m
  | m, a, v :: vs => Memory.setBytes (Memory.setByte m a v) (a + 1) vs

/-- The `n` bytes at rising addresses from `a`. -/
def Memory.bytesAt (m : Memory) : Nat → Nat → List Byte
  | _, 0 => []
  | a, n + 1 => Memory.byteAt m a :: Memory.bytesAt m (a + 1) n

/-- Bytes assembled little-endian, `sum over k of b[k] << (8·k)` (20_memory R35). -/
def littleEndian : List Byte → Nat
  | [] => 0
  | b :: bs => b.toNat + (littleEndian bs <<< 8)

/-- The `n` bytes of an integer, lowest first: byte `k` is `(v >> (8·k)) & 0xFF` (20_memory R35). -/
def littleEndianBytes : Nat → Nat → List Byte
  | 0, _ => []
  | n + 1, v => BitVec.ofNat 8 v :: littleEndianBytes n (v >>> 8)

/-- `MemRead(addr, n)` (20_memory R35). -/
def memRead (m : Memory) (addr n : Nat) : Nat := littleEndian (Memory.bytesAt m addr n)

/-- `MemWrite(addr, n, v)` (20_memory R35). -/
def memWrite (m : Memory) (addr n v : Nat) : Memory := Memory.setBytes m addr (littleEndianBytes n v)

/-- The record at byte offset `off` (20_memory R33). -/
def recordAt (m : Memory) (off : Nat) : Pixel := BitVec.ofNat 16 (memRead m off Config.recordBytes)

/-- The offsets a record access admits: even, at most 126 (20_memory R37). -/
def recordOffsetOk (off : Nat) : Bool := decide (off % 2 = 0) && decide (off ≤ 126)

/-- `MemRead(0, 128)` as the list of bytes it stands for (20_memory R35). -/
def readFrame (m : Memory) : Vector Byte 128 := Vector.ofFn fun a => Memory.byteAt m a.val

/-- `MemWrite(0, 128, buf)` as the list of bytes it stands for (20_memory R35). -/
def writeFrame (m : Memory) (buf : Vector Byte 128) : Memory := Memory.setBytes m 0 buf.toList

/-- A failed WRITEALL: byte `a` is new where bit `a` of `landed` is set, old elsewhere (20_memory R41). -/
def writeLanded (m : Memory) (buf : Vector Byte 128) (landed : BitVec 128) : Memory :=
  (List.finRange 128).foldl (fun m a => if landed.getLsbD a.val then Memory.setByte m a.val buf[a] else m) m

/-! ### The device buffer while external writers are at it (20_memory R38, R44) -/

/-- External writes, in their order. -/
def Memory.externalWrites (m : Memory) (ws : List ByteWrite) : Memory :=
  ws.foldl (fun m w => Memory.setByte m w.1.toNat w.2) m

/-- How many of the external writes come before the operation gets to byte `a`. -/
def Interference.moment (i : Interference) (a : Nat) : Nat := i.before.getD a 0

/-- The value a read finds at byte `a`: the byte as the external writes before that moment have left it. -/
def Interference.seen (i : Interference) (m : Memory) (a : Nat) : Byte :=
  Memory.byteAt (Memory.externalWrites m (i.writes.take (i.moment a))) a

/-- The copy a READALL makes: each byte as it is at the moment it is read, so no snapshot where there are external
writes between two of these moments (20_memory R38). -/
def Interference.readFrame (i : Interference) (m : Memory) : Vector Byte 128 := Vector.ofFn fun a => i.seen m a.val

/-- The record a READAT finds, each of its bytes at its own moment (20_memory R38 gives no atomic read). -/
def Interference.readRecord (i : Interference) (m : Memory) (off : Nat) : Pixel :=
  BitVec.ofNat 16 (littleEndian [i.seen m off, i.seen m (off + 1)])

/-- The buffer after a record write among external writes: both bytes are written at one moment (20_memory R38). -/
def Interference.writeRecord (i : Interference) (m : Memory) (off : Nat) (p : Pixel) : Memory :=
  Memory.externalWrites
    (memWrite (Memory.externalWrites m (i.writes.take (i.moment off))) off Config.recordBytes p.toNat)
    (i.writes.drop (i.moment off))

/-- The external writes, the first of them numbered `n`, that come after the operation has been at their byte. -/
def Interference.late (i : Interference) : Nat → List ByteWrite → List ByteWrite
  | _, [] => []
  | n, w :: ws => if i.moment w.1.toNat ≤ n then w :: i.late (n + 1) ws else i.late (n + 1) ws

/-- The buffer after a write of many bytes, `write`, among external writes: on the bytes that `write` writes, the
external writes stand that come after it has been there; on the others, all of them. -/
def Interference.writeMany (i : Interference) (write : Memory → Memory) (m : Memory) : Memory :=
  Memory.externalWrites (write (Memory.externalWrites m i.writes)) (i.late 0 i.writes)

/-- `rec`, the record of a copied frame at an even offset: `buf[off] | (buf[off+1] << 8)` (45_host_sequences R90,
R93); none at an odd offset. -/
def bufRecord (buf : Vector Byte 128) (off : Offset) : Option Pixel :=
  if h : off.toNat % 2 = 0 then
    some (BitVec.setWidth 16 buf[off.toNat] ||| (BitVec.setWidth 16 (buf[off.toNat + 1]'(by omega)) <<< 8))
  else none

/-! ### Answering a command -/

/-- The response of this step is `w`. -/
def respondWord (w : Rsp) (s : State) : Host.Outcome State Fault Refusal := .next (s.setRsp (some w))

/-- `respond OK(v)` (00_scope R12). -/
def respond (res : Res) (s : State) : Host.Outcome State Fault Refusal := respondWord (okWord res) s

/-- TAKING AN ERROR at the block, `raise <Error>()` (60_exceptions R114): the response is the kind's code with
`RES = 0`, and nothing else happens. There is no handler, no saved state and no return (R115, R116). -/
def raise (e : ErrorKind) (s : State) : Host.Outcome State Fault Refusal := respondWord (errorWord e) s

/-! ### Ending a host sequence -/

/-- The sequence ends with this report: nothing of it is kept (45_host_sequences R87). -/
def finish (r : Report) (s : State) : State :=
  ((s.setTodo []).setScratch Scratch.empty).setReport (some r)

/-- TAKING AN ERROR in a host sequence (60_exceptions R115): it stops at the failing step and reports the kind. -/
def stop (e : ErrorKind) (s : State) : State := finish (.error e) s

/-- Nothing is outstanding at the response port and nothing is reported: how a step begins (10_state R23). -/
def quiet (s : State) : State := (s.setRsp none).setReport none

/-- A later start of the system on the device as it stands (70_reset R126, R127): ROT is 0, the host has nothing in
progress, `MEM` is untouched. The environment goes on where it was. -/
def State.restart (s : State) : State :=
  { State.reset with mem := s.mem, env := s.env, draws := s.draws, params := s.params }

end Sys2Proof.Machine
end

