-- ==== Sys2Proof/Machine/Codec.lean ====
section
/-! DEFINITION. The colour codec: PACK and UNPACK (40_codec). -/

namespace Sys2Proof.Machine

/-- `pack3(r, g, b)` for channels in [0, 255] (40_codec R68): the low bits are truncated, not rounded. -/
def pack3 (r g b : Nat) : Pixel :=
  BitVec.ofNat 16 (((r >>> 3) <<< 11) ||| ((g >>> 2) <<< 5) ||| (b >>> 3))

/-- `unpack3(p)` (40_codec R69): the vacated low bits are zero. -/
def unpack3 (p : Pixel) : Color where
  r := BitVec.setWidth 8 (((p >>> 11) &&& 0x1F) <<< 3)
  g := BitVec.setWidth 8 (((p >>> 5) &&& 0x3F) <<< 2)
  b := BitVec.setWidth 8 ((p &&& 0x1F) <<< 3)

/-- A Color as a result, `{r, g, b}` with red most significant (30_encoding R52). -/
def colorRes (c : Color) : Res := c.r ++ c.g ++ c.b

/-- The Color a host reads from a result. -/
def resColor (res : Res) : Color where
  r := res.extractLsb' 16 8
  g := res.extractLsb' 8 8
  b := res.extractLsb' 0 8

/-- A PackedPixel as a result, `RES[15:0] = p` (30_encoding R58). -/
def pixelRes (p : Pixel) : Res := BitVec.setWidth 24 p

/-- The PackedPixel a host reads from a result. -/
def resPixel (res : Res) : Pixel := res.extractLsb' 0 16

/-- `PACK r, g, b` (40_codec R70). -/
def execPack (r g b : Int) (s : State) : Host.Outcome State Fault Refusal :=
  if channelOk r && channelOk g && channelOk b then respond (pixelRes (pack3 r.toNat g.toNat b.toNat)) s
  else raise .invalidColor s

/-- `UNPACK p` (40_codec R71). -/
def execUnpack (p : Pixel) (s : State) : Host.Outcome State Fault Refusal := respond (colorRes (unpack3 p)) s

end Sys2Proof.Machine
end

