-- ==== Sys2Proof/Machine/Rotator.lean ====
section
/-! DEFINITION. The coordinate rotator: BOFF, BOFFR, SETROT and GETROT (41_rotator). -/

namespace Sys2Proof.Machine

/-- `idx(x, y, rot)` for coordinates in [0, 7] (41_rotator R77). -/
def idx (x y : Nat) : Rotation → Nat
  | .r0 => y * 8 + x
  | .r90 => x * 8 + (7 - y)
  | .r180 => (7 - y) * 8 + (7 - x)
  | .r270 => (7 - x) * 8 + y

/-- `byteOffset(x, y, rot) = 2 · idx(x, y, rot)` (41_rotator R78). -/
def byteOffset (x y : Nat) (rot : Rotation) : Nat := 2 * idx x y rot

/-- The logical pixel (x, y) of record `i` (41_rotator R84). -/
def cellOfRecord (i : Nat) : Rotation → Nat × Nat
  | .r0 => (i % 8, i / 8)
  | .r90 => (i / 8, 7 - i % 8)
  | .r180 => (7 - i % 8, 7 - i / 8)
  | .r270 => (7 - i / 8, i % 8)

/-- A byte offset as a result, `RES[6:0] = offset` (30_encoding R58). -/
def offsetRes (off : Nat) : Res := BitVec.ofNat 24 off

/-- The offset a host reads from a result. -/
def resOffset (res : Res) : Offset := res.extractLsb' 0 7

/-- A rotation as a result, `RES[8:0] = ROT` in degrees (30_encoding R58). -/
def rotationRes (r : Rotation) : Res := BitVec.setWidth 24 r.degrees

/-- The degrees a host reads from a result. -/
def resDegrees (res : Res) : BitVec 9 := res.extractLsb' 0 9

/-- The checks of BOFF (41_rotator R79): the rotation, or the error. Where both checks fail, `ERR_ORDER` says which is
reported (60_exceptions R117 item 2, log entry 8). -/
def boffCheck (coordinateFirst : Bool) (x y rot : Int) : Except ErrorKind Rotation :=
  match coordinateOk x && coordinateOk y, Rotation.ofDegrees rot with
  | true, some r => .ok r
  | true, none => .error .invalidRotation
  | false, some _ => .error .invalidCoordinate
  | false, none => .error (if coordinateFirst then .invalidCoordinate else .invalidRotation)

/-- `BOFF x, y, rot` (41_rotator R79): the rotation is the operand, ROT is not read. -/
def execBoff (x y rot : Int) (s : State) : Host.Outcome State Fault Refusal :=
  match boffCheck s.params.boffCoordinateFirst x y rot with
  | .ok r => respond (offsetRes (byteOffset x.toNat y.toNat r)) s
  | .error e => raise e s

/-- `BOFFR x, y` (41_rotator R80): the rotation is ROT. -/
def execBoffr (x y : Int) (s : State) : Host.Outcome State Fault Refusal :=
  if coordinateOk x && coordinateOk y then respond (offsetRes (byteOffset x.toNat y.toNat s.rot)) s
  else raise .invalidCoordinate s

/-- `SETROT rot` (41_rotator R81): a failing SETROT leaves ROT alone; no memory access in either case. -/
def execSetrot (rot : Int) (s : State) : Host.Outcome State Fault Refusal :=
  match Rotation.ofDegrees rot with
  | some r => respond 0 (s.setRot r)
  | none => raise .invalidRotation s

/-- `GETROT` (41_rotator R82). -/
def execGetrot (s : State) : Host.Outcome State Fault Refusal := respond (rotationRes s.rot) s

end Sys2Proof.Machine
end

