-- ==== Sys2Proof/Machine/Dispatch.lean ====
section
/-! DEFINITION. Each command to its meaning. -/

namespace Sys2Proof.Machine

def exec (i : Instr) (s : State) : Host.Outcome State Fault Refusal :=
  match i with
  | .pack r g b => Sys2Proof.Machine.execPack r g b s
  | .unpack p => Sys2Proof.Machine.execUnpack p s
  | .boff x y rot => Sys2Proof.Machine.execBoff x y rot s
  | .boffr x y => Sys2Proof.Machine.execBoffr x y s
  | .setrot rot => Sys2Proof.Machine.execSetrot rot s
  | .getrot => Sys2Proof.Machine.execGetrot s

end Sys2Proof.Machine
end

