-- ==== Sys2Proof/Machine/Command.lean ====
section
/-! DEFINITION. The block's one step on a command word (30_encoding R61). -/

namespace Sys2Proof.Machine

/-- `step(ROT, w)` (30_encoding R61): the command the word is, or the error `IllegalCommand`, checked on the word alone
before any operand (R62). -/
def command (w : Cmd) (s : State) : Host.Outcome State Fault Refusal :=
  match decode w with
  | .ok i => exec i s
  | .error _ => raise .illegalCommand s

end Sys2Proof.Machine
end

