-- ==== Sys2Proof/Machine/Port.lean ====
section
/-! DEFINITION. The port primitives of the host (FrameBufferPort, 45_host_sequences R89 to R92). Each takes the
outcome the environment gives it (20_memory R41); a failing one stops the sequence with DeviceUnavailable. -/

namespace Sys2Proof.Machine

/-- The outcome of the next port operation, what external writers do during it, and the state with these used up: the
head of the script where that is an outcome, else a fresh free value with no external write (20_memory R38, R41, log
entries 4 and 5). -/
def takeOutcome (s : State) : PortOutcome × Interference × State :=
  match s.env with
  | .port o :: rest => (o, .none, s.setEnv rest)
  | .portDuring o i :: rest => (o, i, s.setEnv rest)
  | _ => (Config.freePortOutcome s.draws, .none, s.setDraws (s.draws + 1))

/-- A port operation that changes no byte itself is over: the external writes during it stand. -/
def afterWrites (i : Interference) (s : State) : State := s.setMem (Memory.externalWrites s.mem i.writes)

/-- A port operation fails with no byte of its own written (20_memory R41). -/
def failPort (i : Interference) (s : State) : State := stop .deviceUnavailable (afterWrites i s)

/-- `WRITERECORD off, p` (45_host_sequences R89). A failed one leaves the record unchanged (20_memory R41, log entry
6); an offset the spec does not admit is refused (R37, log entry 12). -/
def portWriteRecord (off : Nat) (p : Pixel) (s : State) : Host.Outcome State Fault Refusal :=
  if recordOffsetOk off then
    match takeOutcome s with
    | (.ok, i, t) => .next (t.setMem (i.writeRecord t.mem off p))
    | (.unavailable _, i, t) => .next (failPort i t)
  else .refused .recordOffset

/-- `READALL` (45_host_sequences R90): all 128 bytes, into the sequence's own copy, each read at its own moment
(20_memory R38: no snapshot). -/
def portReadAll (s : State) : Host.Outcome State Fault Refusal :=
  match takeOutcome s with
  | (.ok, i, t) => .next ((afterWrites i t).setScratch { t.scratch with buf := i.readFrame t.mem })
  | (.unavailable _, i, t) => .next (failPort i t)

/-- `WRITEALL buf` (45_host_sequences R91). A failed one leaves a mixture of old and new bytes, which the outcome
gives (20_memory R41, log entry 7). -/
def portWriteAll (buf : Vector Byte 128) (s : State) : Host.Outcome State Fault Refusal :=
  match takeOutcome s with
  | (.ok, i, t) => .next (t.setMem (i.writeMany (writeFrame · buf) t.mem))
  | (.unavailable landed, i, t) =>
    .next (stop .deviceUnavailable (t.setMem (i.writeMany (writeLanded · buf landed) t.mem)))

/-- `READAT off, len`: admitted for `len = 2` at a record's offset, then `MemRead(off, 2)` (45_host_sequences R92). -/
def portReadAt (off len : Nat) (s : State) : Host.Outcome State Fault Refusal :=
  if len = Config.recordBytes then
    if recordOffsetOk off then
      match takeOutcome s with
      | (.ok, i, t) => .next ((afterWrites i t).setScratch
          { t.scratch with packs := t.scratch.packs.set 0 (i.readRecord t.mem off) })
      | (.unavailable _, i, t) => .next (failPort i t)
    else .refused .recordOffset
  else .refused .accessLength

/-- `WRITEAT off, bytes`: with two bytes it is WRITERECORD of the pixel they are, low byte first
(45_host_sequences R92). -/
def portWriteAt (off : Nat) (bytes : List Byte) (s : State) : Host.Outcome State Fault Refusal :=
  if bytes.length = Config.recordBytes then portWriteRecord off (BitVec.ofNat 16 (littleEndian bytes)) s
  else .refused .accessLength

end Sys2Proof.Machine
end

