-- ==== Sys2Proof/Machine/Sequences.lean ====
section
/-! DEFINITION. The host sequences of 45_host_sequences: their expansions into block commands and port operations, and
one step of the host. -/

namespace Sys2Proof.Machine

/-! ### One micro-operation -/

/-- The host issues a command and tests the status of the response before it uses the result (70_reset R137): on OK
`use` takes the result; on an error the sequence stops with that kind. -/
def issue (i : Instr) (use : Res → State → State) (s : State) : Host.Outcome State Fault Refusal :=
  match command (encode i) s with
  | .next t =>
    match t.rsp with
    | some w =>
      match statusOf w with
      | .ok => .next (use (resField w) t)
      | .error e => .next (stop e t)
      | .reserved => .next (finish .reservedStatus t)
    | none => .fault .noResponse
  | .fault f => .fault f
  | .refused r => .refused r

/-- The colour a PACK takes: the caller's, or the one read for a cell. -/
def sourceColor (s : State) : ColorSource → RawColor
  | .given c => c
  | .cell k => s.scratch.frame[k].toRaw

/-- The offset BOFFR answered with. -/
def keepOffset (res : Res) (s : State) : State := s.setScratch { s.scratch with off := resOffset res }

/-- The word PACK answered with, for cell `k`. -/
def keepPack (k : Fin 64) (res : Res) (s : State) : State :=
  s.setScratch { s.scratch with packs := s.scratch.packs.set k (resPixel res) }

/-- The Color UNPACK answered with, for cell `k`. -/
def keepColor (k : Fin 64) (res : Res) (s : State) : State :=
  s.setScratch { s.scratch with frame := s.scratch.frame.set k (resColor res) }

/-- The degrees GETROT answered with. -/
def keepDegrees (res : Res) (s : State) : State := s.setScratch { s.scratch with degrees := resDegrees res }

/-- SETROT answers with nothing to keep. -/
def keepNothing (_ : Res) (s : State) : State := s

/-- What a sequence returns. -/
def resultOf (s : State) : Return → Report
  | .nothing => .done
  | .color => .color s.scratch.frame[0]
  | .frame => .frame s.scratch.frame
  | .rotation => .rotation s.scratch.degrees
  | .bytes => .bytes s.scratch.buf
  | .record => .record s.scratch.packs[0]

/-- BOFFR of a sequence: a coordinate that fits no slot is the host's own `InvalidCoordinate`, and no command is issued
(60_exceptions R109). -/
def microBoffr (x y : Arg) (s : State) : Host.Outcome State Fault Refusal :=
  match x.presentable, y.presentable with
  | some x, some y => issue (.boffr x y) keepOffset s
  | _, _ => .next (stop .invalidCoordinate s)

/-- PACK of a sequence: a colour that is not exactly three presentable channels is the host's own `InvalidColor`, and
no command is issued (60_exceptions R108). -/
def microPack (source : ColorSource) (k : Fin 64) (s : State) : Host.Outcome State Fault Refusal :=
  match RawColor.presentable (sourceColor s source) with
  | some (r, g, b) => issue (.pack r g b) (keepPack k) s
  | none => .next (stop .invalidColor s)

/-- UNPACK of a sequence, of the record of the copy at the last offset (45_host_sequences R93, R95). -/
def microUnpack (k : Fin 64) (s : State) : Host.Outcome State Fault Refusal :=
  match bufRecord s.scratch.buf s.scratch.off with
  | some p => issue (.unpack p) (keepColor k) s
  | none => .refused .recordOffset

/-- SETROT of a sequence. -/
def microSetrot (r : Arg) (s : State) : Host.Outcome State Fault Refusal :=
  match r.presentable with
  | some v => issue (.setrot v) keepNothing s
  | none => .next (stop .invalidRotation s)

/-- The check at the head of SETROTATION (45_host_sequences R100). -/
def microCheckRotation (r : Arg) (s : State) : Host.Outcome State Fault Refusal :=
  match r.rotation with
  | some _ => .next s
  | none => .next (stop .invalidRotation s)

/-- One step of a sequence. -/
def microStep (m : MicroOp) (s : State) : Host.Outcome State Fault Refusal :=
  match m with
  | .checkRotation r => microCheckRotation r s
  | .boffr x y => microBoffr x y s
  | .pack source k => microPack source k s
  | .unpack k => microUnpack k s
  | .setrot r => microSetrot r s
  | .getrot => issue .getrot keepDegrees s
  | .writePack k => portWriteRecord s.scratch.off.toNat s.scratch.packs[k] s
  | .writeRecord off p => portWriteRecord off p s
  | .readAll => portReadAll s
  | .writeAll buf => portWriteAll buf s
  | .readAt off len => portReadAt off len s
  | .writeAt off bytes => portWriteAt off bytes s
  | .raise e => .next (stop e s)
  | .done r => .next (finish (resultOf s r) s)

/-! ### The expansions -/

/-- `BOFFR` of the cell numbered `k`. -/
def boffrCell (k : Fin 64) : MicroOp := .boffr (.int (cellX k)) (.int (cellY k))

/-- GETPIXELS without its return: one READALL, then BOFFR and UNPACK for every cell, row-major
(45_host_sequences R95). -/
def readFrameOps : List MicroOp :=
  .readAll :: Config.rowMajor.flatMap fun k => [boffrCell k, .unpack k]

/-- The 64 record writes of SETPIXELS, in the order `CELL_ORDER` (45_host_sequences R96). -/
def writeFrameOps (order : List (Fin 64)) : List MicroOp :=
  order.flatMap fun k => [boffrCell k, .writePack k]

/-- SETPIXELS of the Frame `G`, where cell `k` of `G` is the cell `src k` of the Frame that was read. -/
def rewriteFrameOps (order : List (Fin 64)) (src : Fin 64 → Fin 64) : List MicroOp :=
  Config.rowMajor.map (fun k => .pack (.cell (src k)) k) ++ writeFrameOps order

/-- The cell (7 − x, y) (45_host_sequences R102). -/
def flipCellH (k : Fin 64) : Fin 64 := ⟨8 * cellY k + (7 - cellX k), by simp only [cellX, cellY]; omega⟩

/-- The cell (x, 7 − y) (45_host_sequences R103). -/
def flipCellV (k : Fin 64) : Fin 64 := ⟨8 * (7 - cellY k) + cellX k, by simp only [cellX, cellY]; omega⟩

/-- A grid of exactly 8 rows of exactly 8 cells (60_exceptions R111). -/
def gridShapeOk (rows : List (List RawColor)) : Bool :=
  decide (rows.length = Config.grid) && rows.all fun row => decide (row.length = Config.grid)

/-- SETPIXELS with a grid (45_host_sequences R96). Where `ERR_ORDER` puts the colours before the shape, the colours of a
grid of a wrong shape are checked first (log entry 8). -/
def setGridOps (p : Params) (rows : List (List RawColor)) : List MicroOp :=
  if gridShapeOk rows then
    (Config.rowMajor.zip rows.flatten).map (fun kc => .pack (.given kc.2) kc.1)
      ++ writeFrameOps p.cellOrder ++ [.done .nothing]
  else
    (if p.setPixelsShapeFirst then [] else rows.flatten.map fun c => .pack (.given c) 0)
      ++ [.raise .invalidFrameShape]

/-- SETPIXELS with a generator (45_host_sequences R97): all 64 values packed before the first write, or, where
`GEN_VALIDATE` is lazy, each cell packed and written in turn. -/
def setGeneratorOps (p : Params) (cells : Vector RawColor 64) : List MicroOp :=
  match p.genValidate with
  | .eager => p.cellOrder.map (fun k => .pack (.given cells[k]) k) ++ writeFrameOps p.cellOrder ++ [.done .nothing]
  | .lazy => (p.cellOrder.flatMap fun k => [.pack (.given cells[k]) k, boffrCell k, .writePack k]) ++ [.done .nothing]

/-- SETPIXEL (45_host_sequences R94), its two validations in the order `ERR_ORDER` says. -/
def setPixelOps (p : Params) (x y : Arg) (color : RawColor) : List MicroOp :=
  if p.setPixelColourFirst then [.pack (.given color) 0, .boffr x y, .writePack 0, .done .nothing]
  else [.boffr x y, .pack (.given color) 0, .writePack 0, .done .nothing]

/-- What a host sequence expands to (30_encoding R66). -/
def expand (p : Params) : HostOp → List MicroOp
  | .writeRecord off px => [.writeRecord off px, .done .nothing]
  | .readAll => [.readAll, .done .bytes]
  | .writeAll buf => [.writeAll buf, .done .nothing]
  | .readAt off len => [.readAt off len, .done .record]
  | .writeAt off bytes => [.writeAt off bytes, .done .nothing]
  | .getPixel x y => [.boffr x y, .readAll, .unpack 0, .done .color]
  | .setPixel x y color => setPixelOps p x y color
  | .getPixels => readFrameOps ++ [.done .frame]
  | .setPixels (.grid rows) => setGridOps p rows
  | .setPixels (.generator cells) => setGeneratorOps p cells
  | .clear => setGridOps p (List.replicate 8 (List.replicate 8 [.int 0, .int 0, .int 0]))
  | .getRotation => [.getrot, .done .rotation]
  | .setRotation r =>
    .checkRotation r :: readFrameOps ++ .setrot r :: rewriteFrameOps p.cellOrder id ++ [.done .nothing]
  | .flipH => readFrameOps ++ rewriteFrameOps p.cellOrder flipCellH ++ [.done .nothing]
  | .flipV => readFrameOps ++ rewriteFrameOps p.cellOrder flipCellV ++ [.done .nothing]

/-! ### One step of the host -/

/-- The host takes up a sequence. -/
def beginSequence (op : HostOp) (s : State) : State := (s.setScratch Scratch.empty).setTodo (expand s.params op)

/-- The host goes on: with the sequence in progress; else with the front of its list, a command word given to the
block or a sequence taken up; else it idles, and the block holds ROT (60_exceptions R125). -/
def hostStep (s : State) : Host.Outcome State Fault Refusal :=
  match s.todo, s.program with
  | m :: rest, _ => microStep m (s.setTodo rest)
  | [], .command w :: rest => command w (s.setProgram rest)
  | [], .sequence op :: rest => .next (beginSequence op (s.setProgram rest))
  | [], [] => .next s

/-- An external writer writes one byte (20_memory R44). -/
def externalWrite (a : BitVec 7) (v : Byte) (s : State) : State := s.setMem (Memory.setByte s.mem a.toNat v)

/-- Which agent moves is read off the script: an external write that is due, else the host (log entry 5). External
writes in the midst of a port operation are part of that operation's step. -/
def agentStep (s : State) : Host.Outcome State Fault Refusal :=
  match s.env with
  | .external a v :: rest => .next (externalWrite a v (s.setEnv rest))
  | _ => hostStep s

/-- The entry lets an external writer write, between two steps of the host or during a port operation. -/
def EnvEvent.isExternal : EnvEvent → Bool
  | .external _ _ => true
  | .port _ => false
  | .portDuring _ _ => true

/-- The entry is an external write that comes before the host moves again. -/
def EnvEvent.isDue : EnvEvent → Bool
  | .external _ _ => true
  | .port _ => false
  | .portDuring _ _ => false

end Sys2Proof.Machine
end

