-- ==== Sys2Proof/Machine/Step.lean ====
section
/-! DEFINITION. One step of the machine, and how one command is put where the next step takes it from. -/

namespace Sys2Proof.Machine

/-- One step: the outputs of the step before are gone, then one agent moves. -/
def step (s : State) : Host.Outcome State Fault Refusal := agentStep (quiet s)

/-- The state in which the very next step gives this word to the command port: it stands at the front of the host's
list, no sequence is in progress and no external write is due (log entry 2). -/
def State.withFetchWord (s : State) (nbits w : Nat) : State :=
  { s with
    program := .command (BitVec.ofNat 64 (w % 2 ^ nbits)) :: s.program
    todo := []
    env := s.env.dropWhile EnvEvent.isDue }

end Sys2Proof.Machine
end

