-- ==== Sys2Proof/Machine/Assembler.lean ====
section
/-! DEFINITION. The assembler notation of 30_encoding R65, on lists of characters: a command line to its word, and a
response to its printed form. -/

namespace Sys2Proof.Machine

/-- The slot of a written operand, `value mod 2^16`; an operand below −32768 or above 65535 is refused
(30_encoding R65). -/
def asmSlot (v : Int) : Option Slot := if -32768 ≤ v ∧ v ≤ 65535 then some (toSlot v) else none

/-- The word of a mnemonic and its written operands, in the order A, B, C (30_encoding R65, R57). -/
def assemble (m : Mnemonic) (operands : List Int) : Option Cmd :=
  match m, operands.mapM asmSlot with
  | .PACK, some [r, g, b] => some (commandWord m.opcode r g b)
  | .UNPACK, some [p] => some (commandWord m.opcode 0 0 p)
  | .BOFF, some [x, y, rot] => some (commandWord m.opcode x y rot)
  | .BOFFR, some [x, y] => some (commandWord m.opcode x y 0)
  | .SETROT, some [rot] => some (commandWord m.opcode 0 0 rot)
  | .GETROT, some [] => some (commandWord m.opcode 0 0 0)
  | _, _ => none

/-- The hexadecimal digits, in the order of their values; the decimal ones are the first ten. -/
def hexDigits : List Char := "0123456789ABCDEF".toList

/-- The value of a digit of a base, in either case (log entry 20). -/
def digitValue (base : Nat) (c : Char) : Option Nat := (hexDigits.take base).idxOf? c.toUpper

/-- The value of a literal's digits, most significant first. `_` is a visual separator inside a literal (00_scope R11);
DESIGN CHOICE, log entry 20: text that begins or ends with `_`, or has no digit, is no literal, and between two digits
any number of `_` may stand. -/
def digitsValue (base : Nat) (cs : List Char) : Option Nat :=
  if cs = [] ∨ cs.head? = some '_' ∨ cs.getLast? = some '_' then none
  else (cs.filter (· != '_')).foldlM (fun acc c => (digitValue base c).map (acc * base + ·)) 0

/-- A decimal integer, a leading `-` allowed, or a `0x` hexadecimal literal (30_encoding R65). -/
def literalValue : List Char → Option Int
  | '0' :: 'x' :: cs => (digitsValue 16 cs).map Int.ofNat
  | '-' :: cs => (digitsValue 10 cs).map fun n => -(Int.ofNat n)
  | cs => (digitsValue 10 cs).map Int.ofNat

/-- A line without its comment (30_encoding R65). -/
def stripComment (line : List Char) : List Char := line.takeWhile (· != ';')

/-- The pieces of a text between the separators. -/
def splitAtSep (sep : Char) : List Char → List (List Char)
  | [] => [[]]
  | c :: cs =>
    if c = sep then [] :: splitAtSep sep cs
    else
      match splitAtSep sep cs with
      | [] => [[c]]
      | piece :: rest => (c :: piece) :: rest

/-- A text without its spaces at either end. -/
def trimSpaces (cs : List Char) : List Char :=
  ((cs.dropWhile (· == ' ')).reverse.dropWhile (· == ' ')).reverse

/-- The mnemonic of a name in capitals. -/
def mnemonicOf (name : List Char) : Option Mnemonic :=
  if name = "PACK".toList then some .PACK
  else if name = "UNPACK".toList then some .UNPACK
  else if name = "BOFF".toList then some .BOFF
  else if name = "BOFFR".toList then some .BOFFR
  else if name = "SETROT".toList then some .SETROT
  else if name = "GETROT".toList then some .GETROT
  else none

/-- A line of assembler to its word: a mnemonic, then its operands separated by commas (30_encoding R65; spaces
around each are skipped, log entry 20). A line with no command, or one that is not of this form, gives none. -/
def assembleLine (line : List Char) : Option Cmd :=
  let text := trimSpaces (stripComment line)
  let name := text.takeWhile (· != ' ')
  let rest := trimSpaces (text.dropWhile (· != ' '))
  match mnemonicOf name, (if rest = [] then some [] else (splitAtSep ',' rest).mapM fun p => literalValue (trimSpaces p)) with
  | some m, some operands => assemble m operands
  | _, _ => none

/-- A number in decimal. -/
def decimal (n : Nat) : List Char := Nat.toDigits 10 n

/-- A 16-bit word as `0xHHHH`. -/
def hex4 (p : Pixel) : List Char :=
  '0' :: 'x' :: [p.extractLsb' 12 4, p.extractLsb' 8 4, p.extractLsb' 4 4, p.extractLsb' 0 4].map fun d =>
    hexDigits.getD d.toNat '0'

/-- The name of an error kind (30_encoding R59). -/
def ErrorKind.text : ErrorKind → List Char
  | .invalidColor => "InvalidColor".toList
  | .invalidCoordinate => "InvalidCoordinate".toList
  | .invalidRotation => "InvalidRotation".toList
  | .invalidFrameShape => "InvalidFrameShape".toList
  | .deviceUnavailable => "DeviceUnavailable".toList
  | .illegalCommand => "IllegalCommand".toList

/-- The printed result of a successful command (30_encoding R65). -/
def resultText (m : Mnemonic) (res : Res) : List Char :=
  match m with
  | .PACK => ' ' :: hex4 (resPixel res)
  | .UNPACK =>
    let c := resColor res
    " (".toList ++ decimal c.r.toNat ++ ", ".toList ++ decimal c.g.toNat ++ ", ".toList ++ decimal c.b.toNat ++ ")".toList
  | .BOFF => ' ' :: decimal (resOffset res).toNat
  | .BOFFR => ' ' :: decimal (resOffset res).toNat
  | .SETROT => []
  | .GETROT => ' ' :: decimal (resDegrees res).toNat

/-- `-> OK <result>` or `-> <ErrorName>` (30_encoding R65); a reserved status has no printed form. -/
def responseText (m : Mnemonic) (w : Rsp) : Option (List Char) :=
  match statusOf w with
  | .ok => some ("-> OK".toList ++ resultText m (resField w))
  | .error e => some ("-> ".toList ++ e.text)
  | .reserved => none

end Sys2Proof.Machine
end

