-- ==== Sys2Proof/Safety.lean ====
section
/-! DEFINITION. The terms claims are stated in: legal responses, the invariant, admitted requests, the premises of
20_memory R44, and the picture as a caller sees it. -/

namespace Sys2Proof.Machine

/-- A response of the form of 30_encoding R58 with a status the block produces (R59): bits 27:24 zero, `ST` one of 0,
1, 2, 3, 6, and `RES = 0` unless `ST = 0`. -/
def legalResponse (w : Rsp) : Bool :=
  (zeroField w == 0) && [0, 1, 2, 3, 6].contains (stField w) && (stField w == 0 || resField w == 0)

/-- The invariant of the machine: the buffer is in canonical form, `CELL_ORDER` is an order of the cells, the offset a
sequence holds is even, and a response that is outstanding is legal. -/
structure State.Inv (s : State) : Prop where
  mem_wf : Memory.wf s.mem
  params_wf : s.params.wf
  off_even : s.scratch.off.toNat % 2 = 0
  rsp_legal : ∀ w, s.rsp = some w → legalResponse w = true

/-- A micro-operation whose own arguments the spec admits: record offsets even and at most 126 (20_memory R37),
lengths 2 (45_host_sequences R92). -/
def MicroOp.admitted : MicroOp → Bool
  | .writeRecord off _ => recordOffsetOk off
  | .readAt off len => recordOffsetOk off && decide (len = 2)
  | .writeAt off bytes => recordOffsetOk off && decide (bytes.length = 2)
  | _ => true

/-- A request whose own arguments the spec admits. Every word may be given to the command port. -/
def Request.admitted : Request → Bool
  | .sequence (.writeRecord off _) => recordOffsetOk off
  | .sequence (.readAt off len) => recordOffsetOk off && decide (len = 2)
  | .sequence (.writeAt off bytes) => recordOffsetOk off && decide (bytes.length = 2)
  | _ => true

/-- A safe system: the invariant holds and the host has nothing before it that the spec refuses. -/
structure State.Safe (s : State) : Prop where
  inv : s.Inv
  todo_admitted : ∀ m ∈ s.todo, m.admitted = true
  program_admitted : ∀ r ∈ s.program, r.admitted = true

/-- A micro-operation that accesses the device, and so takes an outcome from the environment (20_memory R41). -/
def MicroOp.isPort : MicroOp → Bool
  | .writePack _ | .writeRecord _ _ | .readAll | .writeAll _ | .readAt _ _ | .writeAt _ _ => true
  | .checkRotation _ | .boffr _ _ | .pack _ _ | .unpack _ | .setrot _ | .getrot | .raise _ | .done _ => false

/-- `NO_EXTERNAL_WRITER` (20_memory R44): none between two steps of the host, none during a port operation. -/
def State.NoExternalWriter (s : State) : Prop := ∀ e ∈ s.env, e.isExternal = false

/-- The device serves the next `n` port operations, and no external writer comes between them: the premises of
45_host_sequences, `NO_EXTERNAL_WRITER` and no DeviceUnavailable. `rest` is what the script says after them. -/
def State.DeviceServes (s : State) (n : Nat) (rest : List EnvEvent) : Prop :=
  s.env = List.replicate n (.port .ok) ++ rest

/-- The host is about to take up the sequence `op`, and has nothing else before it. -/
def State.Starts (s : State) (op : HostOp) : Prop := s.todo = [] ∧ s.program = [.sequence op]

/-- The Color of the logical pixel (x, y), as GETPIXEL returns it (45_host_sequences R93, R95). -/
def State.pixelColor (s : State) (x y : Nat) : Color := unpack3 (recordAt s.mem (byteOffset x y s.rot))

/-- Three channels in range (30_encoding R52). -/
abbrev ValidChannels (c : Nat × Nat × Nat) : Prop := c.1 ≤ 255 ∧ c.2.1 ≤ 255 ∧ c.2.2 ≤ 255

/-- Three channels as a caller gives them. -/
def rawOf (c : Nat × Nat × Nat) : RawColor := [.int c.1, .int c.2.1, .int c.2.2]

/-- The PackedPixel of three channels. -/
def packOf (c : Nat × Nat × Nat) : Pixel := pack3 c.1 c.2.1 c.2.2

/-- The 8×8 grid whose cell (x, y) is `f x y` (00_scope R13). -/
def gridOf (f : Nat → Nat → Nat × Nat × Nat) : List (List RawColor) :=
  (List.range 8).map fun y => (List.range 8).map fun x => rawOf (f x y)

/-- The generator whose value at (x, y) is `f x y` (45_host_sequences R97). -/
def generatorOf (f : Nat → Nat → Nat × Nat × Nat) : Vector RawColor 64 :=
  Vector.ofFn fun k => rawOf (f (cellX k) (cellY k))

/-- `k` steps of the machine. -/
def State.after (s : State) (k : Nat) : Host.Outcome State Fault Refusal := Host.Core.run Sys2Proof.core k s

end Sys2Proof.Machine
end

