-- ==== Sys2Proof/Certificates/Slice0/Obligations.lean ====
section
/-! DEFINITION. The statements about the model. Each docstring names the rule of spec/ it formalises. A rule of spec/
is quoted in OBLIGATIONS.json where a statement says all of it. -/

open Sys2Proof Sys2Proof.Machine

/-! ### Encoding -/

/-- Words of 95_test_vectors sections 2.1 to 2.5 decode to the commands, or to the rejections, named there. -/
def Obligations.SpecWordsDecode : Prop :=
  decode 0x0100_00FF_0080_0000 = .ok (.pack 255 128 0) ∧
  decode 0x0100_0000_FFFF_0000 = .ok (.pack 0 (-1) 0) ∧
  decode 0x0200_0000_0000_8000 = .ok (.unpack 0x8000) ∧
  decode 0x0300_0003_0005_010E = .ok (.boff 3 5 270) ∧
  decode 0x0300_0000_0000_FFA6 = .ok (.boff 0 0 (-90)) ∧
  decode 0x0400_0003_0005_0000 = .ok (.boffr 3 5) ∧
  decode 0x0500_0000_0000_005A = .ok (.setrot 90) ∧
  decode 0x0600_0000_0000_0000 = .ok .getrot ∧
  decode 0x0000_0000_0000_0000 = .error .unassignedOpcode ∧
  decode 0x8100_00FF_00FF_00FF = .error .unassignedOpcode ∧
  decode 0x0301_0008_0000_0000 = .error .reservedField ∧
  decode 0x0400_0001_0001_005A = .error .unusedSlot

/-- Every command that can be presented is read back from its word, with every operand at every value of its slot
(30_encoding R56, R57, R60). -/
def Obligations.DecodeEncodeRoundTrip : Prop :=
  ∀ i : Instr, i.wellFormed = true → decode (encode i) = .ok i

/-- A word that is a command is the word of that command and of no other: no bit is ignored (30_encoding R63). -/
def Obligations.EncodeInvertsDecode : Prop :=
  ∀ (w : Cmd) (i : Instr), decode w = .ok i → i.wellFormed = true ∧ encode i = w

/-- 30_encoding R60: the six rows of the opcode map, by their `OPC`, `match` and `mask`; a word is a row's operation
exactly when `w & mask = match`; the patterns are pairwise disjoint; a word matching none is illegal. -/
def Obligations.OpcodeMapDecides : Prop :=
  (∀ (w : Cmd) (m : Mnemonic), (∃ i, decode w = .ok i ∧ i.mnemonic = m) ↔ w &&& m.maskBits = m.matchBits) ∧
  (∀ (w : Cmd) (m n : Mnemonic), w &&& m.maskBits = m.matchBits → w &&& n.maskBits = n.matchBits → m = n) ∧
  (∀ w : Cmd, (∀ m : Mnemonic, w &&& m.maskBits ≠ m.matchBits) ↔ ∃ e, decode w = .error e) ∧
  (∀ m : Mnemonic, opcField m.matchBits = m.opcode) ∧
  Mnemonic.all.map Mnemonic.opcode = [0x01, 0x02, 0x03, 0x04, 0x05, 0x06] ∧
  Mnemonic.all.map Mnemonic.matchBits =
    [0x0100_0000_0000_0000, 0x0200_0000_0000_0000, 0x0300_0000_0000_0000, 0x0400_0000_0000_0000,
      0x0500_0000_0000_0000, 0x0600_0000_0000_0000] ∧
  Mnemonic.all.map Mnemonic.maskBits =
    [0xFFFF_0000_0000_0000, 0xFFFF_FFFF_FFFF_0000, 0xFFFF_0000_0000_0000, 0xFFFF_0000_0000_FFFF,
      0xFFFF_FFFF_FFFF_0000, 0xFFFF_FFFF_FFFF_FFFF]

/-- 30_encoding R62: the illegal words, the case each falls under, and the answer: `ST = 6`, `RES = 0`, nothing else
changed, whatever the operands. That a word which falls under several cases is named by the first of them is the model's
choice, log entry 21; the answer does not depend on it. -/
def Obligations.IllegalWordsAnswered : Prop :=
  ∀ w : Cmd,
    let opc := (w.extractLsb' 56 8).toNat
    let rsv := w.extractLsb' 48 8
    let a := w.extractLsb' 32 16
    let b := w.extractLsb' 16 16
    let c := w.extractLsb' 0 16
    let unassigned := opc = 0 ∨ 7 ≤ opc
    let slotMustBeZero :=
      (opc = 2 ∧ (a ≠ 0 ∨ b ≠ 0)) ∨ (opc = 4 ∧ c ≠ 0) ∨ (opc = 5 ∧ (a ≠ 0 ∨ b ≠ 0)) ∨
        (opc = 6 ∧ (a ≠ 0 ∨ b ≠ 0 ∨ c ≠ 0))
    (decode w = .error .unassignedOpcode ↔ unassigned) ∧
    (decode w = .error .reservedField ↔ ¬ unassigned ∧ rsv ≠ 0) ∧
    (decode w = .error .unusedSlot ↔ ¬ unassigned ∧ rsv = 0 ∧ slotMustBeZero) ∧
    ((unassigned ∨ rsv ≠ 0 ∨ slotMustBeZero) →
      ∀ s : State, command w s = .next { s with rsp := some 0x6000_0000 })

/-- The operands of a command word are its whole slots: signed for channels, coordinates and rotations, unsigned for a
PackedPixel (30_encoding R56, R57, R61). -/
def Obligations.CommandPortReadsSlots : Prop :=
  ∀ (a b c : Slot) (s : State),
    command (0x01#8 ++ 0#8 ++ a ++ b ++ c) s = exec (.pack a.toInt b.toInt c.toInt) s ∧
    command (0x02#8 ++ 0#8 ++ 0#16 ++ 0#16 ++ c) s = exec (.unpack c) s ∧
    command (0x03#8 ++ 0#8 ++ a ++ b ++ c) s = exec (.boff a.toInt b.toInt c.toInt) s ∧
    command (0x04#8 ++ 0#8 ++ a ++ b ++ 0#16) s = exec (.boffr a.toInt b.toInt) s ∧
    command (0x05#8 ++ 0#8 ++ 0#16 ++ 0#16 ++ c) s = exec (.setrot c.toInt) s ∧
    command (0x06#8 ++ 0#8 ++ 0#16 ++ 0#16 ++ 0#16) s = exec .getrot s

/-- 30_encoding R65, for PACK: an operand from −32768 to 65535 stands in its slot as `value mod 2^16`, any other is
refused. -/
def Obligations.AssembledPackDecodes : Prop :=
  (∀ r g b : Int, -32768 ≤ r → r ≤ 65535 → -32768 ≤ g → g ≤ 65535 → -32768 ≤ b → b ≤ 65535 →
    ∃ w i, assemble .PACK [r, g, b] = some w ∧ decode w = .ok i ∧
      i = .pack (Int.bmod r 65536) (Int.bmod g 65536) (Int.bmod b 65536)) ∧
  (∀ r g b : Int, (r < -32768 ∨ 65535 < r ∨ g < -32768 ∨ 65535 < g ∨ b < -32768 ∨ 65535 < b) →
    assemble .PACK [r, g, b] = none)

/-! ### The colour codec -/

/-- 40_codec R70 (with R68): the encoding of PACK; in range it answers `{r[7:3], g[7:2], b[7:3]}`; otherwise
InvalidColor; nothing else changes. -/
def Obligations.PackMeaning : Prop :=
  (∀ a b c : Slot, decode (0x01#8 ++ 0#8 ++ a ++ b ++ c) = .ok (.pack a.toInt b.toInt c.toInt)) ∧
  (∀ (r g b : Int) (s : State), 0 ≤ r → r ≤ 255 → 0 ≤ g → g ≤ 255 → 0 ≤ b → b ≤ 255 →
    exec (.pack r g b) s = .next { s with rsp := some (0#16 ++
      ((BitVec.ofInt 8 r).extractLsb' 3 5 ++ (BitVec.ofInt 8 g).extractLsb' 2 6 ++
        (BitVec.ofInt 8 b).extractLsb' 3 5)) }) ∧
  (∀ (r g b : Int) (s : State), r < 0 ∨ 255 < r ∨ g < 0 ∨ 255 < g ∨ b < 0 ∨ 255 < b →
    exec (.pack r g b) s = .next { s with rsp := some 0x1000_0000 })

/-- 40_codec R71 (with R69): the encoding of UNPACK; every PackedPixel is answered with its three fields, the vacated
low bits zero; nothing else changes. -/
def Obligations.UnpackMeaning : Prop :=
  (∀ p : Pixel, decode (0x02#8 ++ 0#8 ++ 0#16 ++ 0#16 ++ p) = .ok (.unpack p)) ∧
  (∀ (a b : Slot) (p : Pixel), a ≠ 0 ∨ b ≠ 0 →
    decode (0x02#8 ++ 0#8 ++ a ++ b ++ p) = .error .unusedSlot) ∧
  (∀ (p : Pixel) (s : State), exec (.unpack p) s = .next { s with rsp := some (0#8 ++
      (p.extractLsb' 11 5 ++ 0#3) ++ (p.extractLsb' 5 6 ++ 0#2) ++ (p.extractLsb' 0 5 ++ 0#3)) })

/-- 40_codec R72: packing and unpacking clears the low three bits of red and blue and the low two of green; the error
is bounded and the result never exceeds the input. -/
def Obligations.TruncationLaw : Prop :=
  ∀ r g b : Nat, r ≤ 255 → g ≤ 255 → b ≤ 255 →
    let c := unpack3 (pack3 r g b)
    c.r.toNat = r - r % 8 ∧ c.g.toNat = g - g % 4 ∧ c.b.toNat = b - b % 8 ∧
    c.r.toNat ≤ r ∧ r - c.r.toNat ≤ 7 ∧ c.g.toNat ≤ g ∧ g - c.g.toNat ≤ 3 ∧ c.b.toNat ≤ b ∧ b - c.b.toNat ≤ 7

/-- 40_codec R73: `pack(unpack(p)) == p` for every PackedPixel, and PACK never fails on what UNPACK gives. -/
def Obligations.PackedRoundTrip : Prop :=
  ∀ p : Pixel,
    let c := unpack3 p
    pack3 c.r.toNat c.g.toNat c.b.toNat = p ∧
    ∀ s : State, exec (.pack c.r.toNat c.g.toNat c.b.toNat) s = .next { s with rsp := some (0#16 ++ p) }

/-- Truncation is idempotent; a Color is its own truncation exactly when its low bits are zero; two Colors pack to
the same word exactly when they have the same truncation (40_codec R74, without its count of 256). -/
def Obligations.TruncationIdempotent : Prop :=
  ∀ c d : Color,
    let T := fun e : Color => unpack3 (pack3 e.r.toNat e.g.toNat e.b.toNat)
    T (T c) = T c ∧
    (T c = c ↔ c.r &&& 7 = 0 ∧ c.g &&& 3 = 0 ∧ c.b &&& 7 = 0) ∧
    (pack3 c.r.toNat c.g.toNat c.b.toNat = pack3 d.r.toNat d.g.toNat d.b.toNat ↔ T c = T d)

/-! ### The coordinate rotator -/

/-- 41_rotator R79: the encoding of BOFF; the four formulas of R77 doubled (R78), whatever ROT is; the two errors; and
their order under the default `ERR_ORDER` (60_exceptions R117 item 2, decision D9). That `ERR_ORDER` is a field of the
state, and so a premise of that clause, is the model's choice, log entry 8. -/
def Obligations.BoffMeaning : Prop :=
  (∀ a b c : Slot, decode (0x03#8 ++ 0#8 ++ a ++ b ++ c) = .ok (.boff a.toInt b.toInt c.toInt)) ∧
  (∀ (x y : Nat) (s : State), x ≤ 7 → y ≤ 7 →
    exec (.boff x y 0) s = .next { s with rsp := some (BitVec.ofNat 32 (2 * (y * 8 + x))) } ∧
    exec (.boff x y 90) s = .next { s with rsp := some (BitVec.ofNat 32 (2 * (x * 8 + (7 - y)))) } ∧
    exec (.boff x y 180) s = .next { s with rsp := some (BitVec.ofNat 32 (2 * ((7 - y) * 8 + (7 - x)))) } ∧
    exec (.boff x y 270) s = .next { s with rsp := some (BitVec.ofNat 32 (2 * ((7 - x) * 8 + y))) }) ∧
  (∀ (x y rot : Int) (s : State), x < 0 ∨ 7 < x ∨ y < 0 ∨ 7 < y → s.params.boffCoordinateFirst = true →
    exec (.boff x y rot) s = .next { s with rsp := some 0x2000_0000 }) ∧
  (∀ (x y rot : Int) (s : State), 0 ≤ x → x ≤ 7 → 0 ≤ y → y ≤ 7 →
    rot ≠ 0 → rot ≠ 90 → rot ≠ 180 → rot ≠ 270 →
    exec (.boff x y rot) s = .next { s with rsp := some 0x3000_0000 })

/-- BOFF with a bad coordinate under the other `ERR_ORDER` (60_exceptions R117 item 2, decision D9): InvalidRotation
is reported when the rotation is bad as well, and InvalidCoordinate when it is not. That `ERR_ORDER` is a field of the
state is the model's choice, log entry 8. -/
def Obligations.BoffOtherErrorOrder : Prop :=
  ∀ (x y rot : Int) (s : State), x < 0 ∨ 7 < x ∨ y < 0 ∨ 7 < y → s.params.boffCoordinateFirst = false →
    let answer : Rsp := if rot = 0 ∨ rot = 90 ∨ rot = 180 ∨ rot = 270 then 0x2000_0000 else 0x3000_0000
    exec (.boff x y rot) s = .next { s with rsp := some answer }

/-- 41_rotator R80: the encoding of BOFFR; the formula that ROT selects; the error; and, for every `x`, `y` and state,
the response of BOFF with ROT as its operand. -/
def Obligations.BoffrMeaning : Prop :=
  (∀ a b : Slot, decode (0x04#8 ++ 0#8 ++ a ++ b ++ 0#16) = .ok (.boffr a.toInt b.toInt)) ∧
  (∀ a b c : Slot, c ≠ 0 → decode (0x04#8 ++ 0#8 ++ a ++ b ++ c) = .error .unusedSlot) ∧
  (∀ (x y : Nat) (s : State), x ≤ 7 → y ≤ 7 →
    exec (.boffr x y) s = .next { s with rsp := some (BitVec.ofNat 32 (match s.rot with
      | .r0 => 2 * (y * 8 + x)
      | .r90 => 2 * (x * 8 + (7 - y))
      | .r180 => 2 * ((7 - y) * 8 + (7 - x))
      | .r270 => 2 * ((7 - x) * 8 + y))) }) ∧
  (∀ (x y : Int) (s : State), x < 0 ∨ 7 < x ∨ y < 0 ∨ 7 < y →
    exec (.boffr x y) s = .next { s with rsp := some 0x2000_0000 }) ∧
  (∀ (x y : Int) (s : State), exec (.boffr x y) s = exec (.boff x y s.rot.degrees.toNat) s)

/-- 41_rotator R81: the encoding of SETROT; a legal rotation is written and answered with 0; any other is
InvalidRotation and ROT keeps its value; nothing else changes in either case. -/
def Obligations.SetrotMeaning : Prop :=
  (∀ c : Slot, decode (0x05#8 ++ 0#8 ++ 0#16 ++ 0#16 ++ c) = .ok (.setrot c.toInt)) ∧
  (∀ s : State,
    exec (.setrot 0) s = .next { s with rot := .r0, rsp := some 0 } ∧
    exec (.setrot 90) s = .next { s with rot := .r90, rsp := some 0 } ∧
    exec (.setrot 180) s = .next { s with rot := .r180, rsp := some 0 } ∧
    exec (.setrot 270) s = .next { s with rot := .r270, rsp := some 0 }) ∧
  (∀ (rot : Int) (s : State), rot ≠ 0 → rot ≠ 90 → rot ≠ 180 → rot ≠ 270 →
    exec (.setrot rot) s = .next { s with rsp := some 0x3000_0000 })

/-- 41_rotator R82: the encoding of GETROT; it answers ROT in degrees and changes nothing else. -/
def Obligations.GetrotMeaning : Prop :=
  decode 0x0600_0000_0000_0000 = .ok .getrot ∧
  (∀ w : Cmd, w.extractLsb' 56 8 = 0x06#8 → w ≠ 0x0600_0000_0000_0000 → ∃ e, decode w = .error e) ∧
  (∀ s : State, exec .getrot s = .next { s with rsp := some (match s.rot with
    | .r0 => 0
    | .r90 => 90
    | .r180 => 180
    | .r270 => 270) })

/-- 41_rotator R83: for each rotation, byteOffset is a bijection from the 64 pixels to the even numbers 0 to 126. -/
def Obligations.OffsetsAreABijection : Prop :=
  ∀ rot : Rotation,
    (∀ x y : Nat, x ≤ 7 → y ≤ 7 → byteOffset x y rot % 2 = 0 ∧ byteOffset x y rot ≤ 126) ∧
    (∀ off : Nat, off % 2 = 0 → off ≤ 126 → ∃! p : Nat × Nat, p.1 ≤ 7 ∧ p.2 ≤ 7 ∧ byteOffset p.1 p.2 rot = off)

/-- 41_rotator R84: the inverse mapping. -/
def Obligations.InverseMappingInverts : Prop :=
  ∀ rot : Rotation,
    (∀ i : Nat, i < 64 → (cellOfRecord i rot).1 ≤ 7 ∧ (cellOfRecord i rot).2 ≤ 7 ∧
      idx (cellOfRecord i rot).1 (cellOfRecord i rot).2 rot = i) ∧
    (∀ x y : Nat, x ≤ 7 → y ≤ 7 → cellOfRecord (idx x y rot) rot = (x, y))

/-- 41_rotator R85: the four mappings are the four powers of one quarter turn, and opposite rotations sum to 126. -/
def Obligations.MappingsAreQuarterTurns : Prop :=
  let ρ := fun p : Nat × Nat => (7 - p.2, p.1)
  ∀ x y : Nat, x ≤ 7 → y ≤ 7 →
    idx x y .r90 = idx (ρ (x, y)).1 (ρ (x, y)).2 .r0 ∧
    idx x y .r180 = idx (ρ (ρ (x, y))).1 (ρ (ρ (x, y))).2 .r0 ∧
    idx x y .r270 = idx (ρ (ρ (ρ (x, y)))).1 (ρ (ρ (ρ (x, y)))).2 .r0 ∧
    ρ (ρ (ρ (ρ (x, y)))) = (x, y) ∧
    idx x y .r180 = 63 - idx x y .r0 ∧ idx x y .r270 = 63 - idx x y .r90 ∧
    byteOffset x y .r180 = 126 - byteOffset x y .r0 ∧ byteOffset x y .r270 = 126 - byteOffset x y .r90

/-! ### The block as a whole -/

/-- Frame of the six commands: only the response, and ROT for SETROT, can change; every byte of memory reads as
before (10_state R17, 60_exceptions R114). -/
def Obligations.CommandFrame : Prop :=
  ∀ (i : Instr) (s t : State), exec i s = .next t →
    (∀ a, Memory.byteAt t.mem a = Memory.byteAt s.mem a) ∧ t = { s with rsp := t.rsp, rot := t.rot } ∧
    ((∀ v, i ≠ .setrot v) → t.rot = s.rot)

/-- The block is total: every one of the 2^64 words is answered with one legal response, and at most ROT changes with
it (30_encoding R58, R59, R61). -/
def Obligations.EveryWordIsAnswered : Prop :=
  ∀ (w : Cmd) (s : State), ∃ t r, command w s = .next t ∧ t = { s with rsp := some r, rot := t.rot } ∧
    legalResponse r = true

/-- 60_exceptions R114: a response with `ST` not 0 has `RES = 0` and nothing else has changed, and any next command
is executed as if the failing one had never been issued. -/
def Obligations.ErrorsChangeNothing : Prop :=
  ∀ (w : Cmd) (s t : State) (r : Rsp), command w s = .next t → t.rsp = some r → r.extractLsb' 28 4 ≠ 0 →
    r.extractLsb' 0 24 = 0 ∧ t = { s with rsp := some r } ∧ ∀ w' : Cmd, command w' t = command w' s

/-- 20_memory R42: a command completes in every state, and reads and writes no memory: it leaves the buffer, and does
the same over any other buffer. -/
def Obligations.CommandsIgnoreMemory : Prop :=
  ∀ (i : Instr) (s : State), ∃ t, exec i s = .next t ∧ t.mem = s.mem ∧
    ∀ m : Memory, exec i { s with mem := m } = .next { t with mem := m }

/-- The response is a function of the command word alone, but for BOFFR and GETROT, where it is one of the word and
ROT (10_state R25), for a fixed `ERR_ORDER`. That `ERR_ORDER` is a field of the state is the model's choice, log entry
8. -/
def Obligations.ResponseDependsOnWordAndRot : Prop :=
  ∀ (w : Cmd) (s s' t t' : State), s.params = s'.params → command w s = .next t → command w s' = .next t' →
    (s.rot = s'.rot ∨ (w.extractLsb' 56 8 ≠ 0x04#8 ∧ w.extractLsb' 56 8 ≠ 0x06#8)) → t.rsp = t'.rsp

/-- 10_state R19: ROT is 0 at reset; a step that changes ROT is a SETROT, given to the command port or issued by a
sequence, and the new value is the legal rotation that was its operand. What the host has before it, a list of
requests and the rest of a sequence, is the model's choice, log entries 2 and 15. -/
def Obligations.OnlySetrotWritesRot : Prop :=
  State.reset.rot = .r0 ∧
  ∀ s t : State, step s = .next t → t.rot ≠ s.rot →
    ∃ v, Rotation.ofDegrees v = some t.rot ∧
      ((s.todo = [] ∧ ∃ w rest, s.program = .command w :: rest ∧ decode w = .ok (.setrot v)) ∨
        ∃ rest, s.todo = .setrot (.int v) :: rest)

/-- A byte of MEM changes only by an external write to it, due now or in the midst of the port operation of this step,
or by a write of the host to a range that holds it (10_state R17, 20_memory R42). Where an external writer can write
is the model's choice, log entry 5. -/
def Obligations.OnlyWritesChangeMemory : Prop :=
  ∀ (s t : State) (a : Nat), step s = .next t → Memory.byteAt t.mem a ≠ Memory.byteAt s.mem a →
    (∃ b v rest, s.env = .external b v :: rest ∧ a = b.toNat) ∨
    (∃ o i events m rest, s.env = .portDuring o i :: events ∧ s.todo = m :: rest ∧ m.isPort = true ∧
      ∃ w ∈ i.writes, a = w.1.toNat) ∨
    (∃ k rest, s.todo = .writePack k :: rest ∧ (a = s.scratch.off.toNat ∨ a = s.scratch.off.toNat + 1)) ∨
    (∃ off p rest, s.todo = .writeRecord off p :: rest ∧ (a = off ∨ a = off + 1)) ∨
    (∃ off bytes rest, s.todo = .writeAt off bytes :: rest ∧ (a = off ∨ a = off + 1)) ∨
    (∃ buf rest, s.todo = .writeAll buf :: rest ∧ a < 128)

/-! ### Steps, reset and the invariant -/

/-- A command word at the front of the host's list, with no sequence in progress and no external write due, is decoded
and executed, and used up; `withFetchWord` makes any state such a state. That `withFetchWord` puts the word in front,
and drops a sequence in progress and the external writes that are due, is the model's choice, log entry 2; that the
report of the step before is gone is log entry 1. -/
def Obligations.StepRunsDecodedInstruction : Prop :=
  (∀ (s : State) (w : Cmd) (rest : List Request) (i : Instr), s.todo = [] → s.program = .command w :: rest →
    (∀ a v events, s.env ≠ .external a v :: events) → decode w = .ok i →
    step s = exec i { s with program := rest, rsp := none, report := none }) ∧
  (∀ (s : State) (w : Cmd) (i : Instr), decode w = .ok i →
    ∃ env, step (s.withFetchWord 64 w.toNat) =
      exec i { s with todo := [], env := env, rsp := none, report := none } ∧
      ∃ dropped, s.env = dropped ++ env ∧ ∀ e ∈ dropped, e.isDue = true)

/-- The same for a word that is no command: it is used up and answered with IllegalCommand. That the report of the
step before is gone is the model's choice, log entry 1; that the host takes the front of its list, log entry 2. -/
def Obligations.StepAnswersIllegalWord : Prop :=
  ∀ (s : State) (w : Cmd) (rest : List Request) (e : Reject), s.todo = [] → s.program = .command w :: rest →
    (∀ a v events, s.env ≠ .external a v :: events) → decode w = .error e →
    step s = .next { s with program := rest, rsp := some 0x6000_0000, report := none }

/-- With nothing to do the block is idle and holds ROT; nothing changes but the outputs of the step before
(60_exceptions R125, log entry 1). -/
def Obligations.StepIdles : Prop :=
  ∀ s : State, s.todo = [] → s.program = [] → (∀ a v events, s.env ≠ .external a v :: events) →
    step s = .next { s with rsp := none, report := none }

/-- An external writer's step writes one byte of the buffer and nothing else of the system (20_memory R44, log entry
5). That the outputs of the step before are gone is the model's choice, log entry 1. -/
def Obligations.ExternalWriteChangesOneByte : Prop :=
  ∀ (s : State) (a : BitVec 7) (v : Byte) (rest : List EnvEvent), s.env = .external a v :: rest →
    ∃ t, step s = .next t ∧ t = { s with mem := t.mem, env := rest, rsp := none, report := none } ∧
      Memory.byteAt t.mem a.toNat = v ∧ ∀ b, b ≠ a.toNat → Memory.byteAt t.mem b = Memory.byteAt s.mem b

/-- After reset ROT is 0 degrees and no response is outstanding (10_state R28); so GETROT answers 0 and BOFFR is BOFF at
rotation 0. That each byte of MEM is then the free value of its address is the model's choice, log entry 3. -/
def Obligations.ResetState : Prop :=
  State.reset.rot = .r0 ∧ State.reset.rsp = none ∧
  (∀ a, Memory.byteAt State.reset.mem a = Config.initialByte a) ∧
  exec .getrot State.reset = .next { State.reset with rsp := some 0 } ∧
  ∀ x y : Int, exec (.boffr x y) State.reset = exec (.boff x y 0) State.reset

/-- A later start leaves MEM alone and reads it through the mapping of rotation 0 (70_reset R126, R127; that a
start is `State.restart` is the model's choice, log entry 17). -/
def Obligations.RestartKeepsBuffer : Prop :=
  ∀ s : State, s.restart.rot = .r0 ∧ s.restart.rsp = none ∧ s.restart.todo = [] ∧
    (∀ a, Memory.byteAt s.restart.mem a = Memory.byteAt s.mem a) ∧
    ∀ x y : Nat, x ≤ 7 → y ≤ 7 → s.restart.pixelColor x y = unpack3 (recordAt s.mem (16 * y + 2 * x))

/-- The invariant holds after reset. The form of the buffer, the order of the cells and the offset in the scratch at
reset are the model's choices, log entries 3, 10 and 14. -/
def Obligations.ResetMeetsInvariant : Prop := State.reset.Inv

/-- Every step keeps the invariant: the buffer stays canonical and inside its 128 bytes, the offset in use stays even,
every response is of the form of 30_encoding R58 and R59. The form of the buffer is the model's choice, log entry 3,
and so are the order of the cells and the scratch, log entries 10 and 14. -/
def Obligations.StepKeepsInvariant : Prop := ∀ s t : State, s.Inv → step s = .next t → t.Inv

/-- A safe system never stops and stays safe: with admitted requests no step faults or refuses, so no sequence ever
makes a misaligned or out-of-range access (20_memory R37), whatever the device and external writers do. Which requests
are refused is log entry 12. -/
def Obligations.SafeSystemNeverStops : Prop := ∀ s : State, s.Safe → ∃ t, step s = .next t ∧ t.Safe

/-- The open parameters never change (00_scope R10). That they are a field of the state is the model's choice, log
entries 8, 9 and 10. -/
def Obligations.StepKeepsParameters : Prop := ∀ s t : State, step s = .next t → t.params = s.params

/-! ### The device buffer and the port -/

/-- 20_memory R34: the two bytes of a record in terms of the colour fields. -/
def Obligations.RecordBytesByColour : Prop :=
  ∀ (m : Memory) (i : Nat) (p : Pixel),
    let r5 := p.extractLsb' 11 5
    let g6 := p.extractLsb' 5 6
    let b5 := p.extractLsb' 0 5
    let m' := memWrite m (2 * i) 2 p.toNat
    Memory.byteAt m' (2 * i) = g6.extractLsb' 0 3 ++ b5 ∧
    Memory.byteAt m' (2 * i + 1) = r5 ++ g6.extractLsb' 3 3

/-- WRITERECORD, with no external write during it, writes its two bytes and no other (45_host_sequences R89). That a
failing one writes none is the choice of log entry 6, and that an offset which is odd or above 126 is refused that of
log entry 12 (20_memory R41, R37). -/
def Obligations.WriteRecordMeaning : Prop :=
  (∀ (off : Nat) (p : Pixel) (s : State) (rest : List EnvEvent), off % 2 = 0 → off ≤ 126 →
    s.env = .port .ok :: rest →
    ∃ t, portWriteRecord off p s = .next t ∧ t = { s with mem := t.mem, env := rest } ∧
      Memory.byteAt t.mem off = p.extractLsb' 0 8 ∧ Memory.byteAt t.mem (off + 1) = p.extractLsb' 8 8 ∧
      ∀ a, a ≠ off → a ≠ off + 1 → Memory.byteAt t.mem a = Memory.byteAt s.mem a) ∧
  (∀ (off : Nat) (p : Pixel) (s : State) (landed : BitVec 128) (rest : List EnvEvent), off % 2 = 0 → off ≤ 126 →
    s.env = .port (.unavailable landed) :: rest →
    ∃ t, portWriteRecord off p s = .next t ∧ t.mem = s.mem ∧ t.rot = s.rot ∧ t.todo = [] ∧
      t.report = some (.error .deviceUnavailable)) ∧
  (∀ (off : Nat) (p : Pixel) (s : State), off % 2 = 1 ∨ 126 < off →
    portWriteRecord off p s = .refused .recordOffset)

/-- 45_host_sequences R90, with no external write during it: READALL copies the 128 bytes and leaves them; each record
of the copy is the record of the buffer; a failing one is reported and reads nothing. That the host's scratch is then
empty is the model's choice, log entry 14. -/
def Obligations.ReadAllMeaning : Prop :=
  (∀ (s : State) (rest : List EnvEvent), s.env = .port .ok :: rest →
    ∃ t, portReadAll s = .next t ∧ t = { s with scratch := t.scratch, env := rest } ∧
      (∀ (a : Nat) (h : a < 128), t.scratch.buf[a] = Memory.byteAt s.mem a) ∧
      ∀ off : Offset, off.toNat % 2 = 0 → bufRecord t.scratch.buf off = some (recordAt s.mem off.toNat)) ∧
  (∀ (s : State) (landed : BitVec 128) (rest : List EnvEvent), s.env = .port (.unavailable landed) :: rest →
    ∃ t, portReadAll s = .next t ∧ t.mem = s.mem ∧ t.rot = s.rot ∧ t.scratch = Scratch.empty ∧
      t.report = some (.error .deviceUnavailable))

/-- 45_host_sequences R91 (with 20_memory R41), with no external write during it: WRITEALL writes all 128 bytes; a
failing one leaves each byte old or new, any mixture being possible, and is reported. That the outcome names the bytes
that are new is log entry 7. -/
def Obligations.WriteAllMeaning : Prop :=
  (∀ (buf : Vector Byte 128) (s : State) (rest : List EnvEvent), s.env = .port .ok :: rest →
    ∃ t, portWriteAll buf s = .next t ∧ t = { s with mem := t.mem, env := rest } ∧
      ∀ (a : Nat) (h : a < 128), Memory.byteAt t.mem a = buf[a]) ∧
  (∀ (buf : Vector Byte 128) (s : State) (landed : BitVec 128) (rest : List EnvEvent),
    s.env = .port (.unavailable landed) :: rest →
    ∃ t, portWriteAll buf s = .next t ∧ t.rot = s.rot ∧ t.report = some (.error .deviceUnavailable) ∧
      ∀ (a : Nat) (h : a < 128),
        Memory.byteAt t.mem a = if landed.getLsbD a then buf[a] else Memory.byteAt s.mem a)

/-- 45_host_sequences R92: READAT of a record's two bytes; WRITEAT with two bytes is WRITERECORD; every other length,
and READAT at another offset, is refused. The refusals are log entry 12. -/
def Obligations.ReadAtWriteAtMeaning : Prop :=
  (∀ (off : Nat) (s : State) (rest : List EnvEvent), off % 2 = 0 → off ≤ 126 → s.env = .port .ok :: rest →
    ∃ t, portReadAt off 2 s = .next t ∧ t = { s with scratch := t.scratch, env := rest } ∧
      t.scratch.packs[0] = Memory.byteAt s.mem (off + 1) ++ Memory.byteAt s.mem off) ∧
  (∀ (off : Nat) (s : State), off % 2 = 1 ∨ 126 < off → portReadAt off 2 s = .refused .recordOffset) ∧
  (∀ (off len : Nat) (s : State), len ≠ 2 → portReadAt off len s = .refused .accessLength) ∧
  (∀ (off : Nat) (lo hi : Byte) (s : State), portWriteAt off [lo, hi] s = portWriteRecord off (hi ++ lo) s) ∧
  (∀ (off : Nat) (bytes : List Byte) (s : State), bytes.length ≠ 2 →
    portWriteAt off bytes s = .refused .accessLength)

/-! ### The host sequences. How many steps a sequence takes is counted by log entry 15, the model's choice. A report
that is outstanding before the first step is no report of the sequence: where a number of steps is left open it is
above 0. -/

/-- "All validation errors are raised synchronously before any I/O" (45_host_sequences R88), with GEN_VALIDATE eager (log
entry 9) and no external writer: a sequence that ends in an error other than DeviceUnavailable has written nothing, has
changed no rotation and has used no port operation. -/
def Obligations.ValidationComesBeforeIO : Prop :=
  ∀ (s t : State) (op : HostOp) (n : Nat) (e : ErrorKind), s.Starts op → s.NoExternalWriter →
    s.params.genValidate = .eager → s.after n = .next t → t.report = some (.error e) → e ≠ .deviceUnavailable →
    t.mem = s.mem ∧ t.rot = s.rot ∧ t.env = s.env ∧ t.draws = s.draws

/-- GETPIXEL (45_host_sequences R93): the Color of the record that (x, y) has at ROT, after one READALL; a bad
coordinate is reported with no I/O. How many steps this takes is counted by log entry 15, the model's choice. -/
def Obligations.GetPixelMeaning : Prop :=
  (∀ (s : State) (x y : Nat) (rest : List EnvEvent), x ≤ 7 → y ≤ 7 →
    s.Starts (.getPixel (.int x) (.int y)) → s.NoExternalWriter → s.DeviceServes 1 rest →
    ∃ t, s.after 5 = .next t ∧ t.report = some (.color (unpack3 (recordAt s.mem (byteOffset x y s.rot)))) ∧
      t.mem = s.mem ∧ t.rot = s.rot ∧ t.env = rest ∧ t.todo = []) ∧
  (∀ (s : State) (x y : Int), x < 0 ∨ 7 < x ∨ y < 0 ∨ 7 < y →
    s.Starts (.getPixel (.int x) (.int y)) → s.NoExternalWriter →
    ∃ t, s.after 2 = .next t ∧ t.report = some (.error .invalidCoordinate) ∧
      t.mem = s.mem ∧ t.rot = s.rot ∧ t.env = s.env ∧ t.draws = s.draws)

/-- SETPIXEL (45_host_sequences R94): one record write, of the packed colour, at the offset of (x, y) at ROT; every
other byte as before; nothing read. How many steps this takes is counted by log entry 15, the model's choice. -/
def Obligations.SetPixelWritesOneRecord : Prop :=
  ∀ (s : State) (x y : Nat) (c : Nat × Nat × Nat) (rest : List EnvEvent), x ≤ 7 → y ≤ 7 → ValidChannels c →
    s.Starts (.setPixel (.int x) (.int y) (rawOf c)) → s.NoExternalWriter → s.DeviceServes 1 rest →
    ∃ t, s.after 5 = .next t ∧ t.report = some .done ∧ t.rot = s.rot ∧ t.env = rest ∧ t.todo = [] ∧
      recordAt t.mem (byteOffset x y s.rot) = pack3 c.1 c.2.1 c.2.2 ∧
      ∀ a, a ≠ byteOffset x y s.rot → a ≠ byteOffset x y s.rot + 1 →
        Memory.byteAt t.mem a = Memory.byteAt s.mem a

/-- SETPIXEL with a bad colour or coordinate (45_host_sequences R94, 60_exceptions R108, R109, R117 item 3): which
error is reported, under both values of `ERR_ORDER`, and that nothing has been done. A colour is bad when it is not
three integers in [0, 255]; a coordinate when it is no integer in [0, 7]. That `ERR_ORDER` is a field of the state,
how a caller's value is given and how steps are counted are the model's choices, log entries 8, 13 and 15. -/
def Obligations.SetPixelErrors : Prop :=
  ∀ (s : State) (x y : Arg) (c : RawColor),
    let colourOk := ∃ d : Nat × Nat × Nat, ValidChannels d ∧ c = rawOf d
    let coordinateOk := ∃ u v : Nat, u ≤ 7 ∧ v ≤ 7 ∧ x = .int u ∧ y = .int v
    s.Starts (.setPixel x y c) → s.NoExternalWriter → ¬ (colourOk ∧ coordinateOk) →
    ∃ n t e, 0 < n ∧ n ≤ 3 ∧ s.after n = .next t ∧ t.report = some (.error e) ∧
      t.mem = s.mem ∧ t.rot = s.rot ∧ t.env = s.env ∧ t.draws = s.draws ∧
      (¬ colourOk → coordinateOk → e = .invalidColor) ∧
      (colourOk → ¬ coordinateOk → e = .invalidCoordinate) ∧
      (¬ colourOk → ¬ coordinateOk →
        e = if s.params.setPixelColourFirst then .invalidColor else .invalidCoordinate)

/-- GETPIXELS (45_host_sequences R95): the Frame of all 64 logical pixels, after one READALL; nothing changes. How
many steps this takes is counted by log entry 15, the model's choice. -/
def Obligations.GetPixelsReturnsFrame : Prop :=
  ∀ (s : State) (rest : List EnvEvent), s.Starts .getPixels → s.NoExternalWriter → s.DeviceServes 1 rest →
    ∃ t F, s.after 131 = .next t ∧ t.report = some (.frame F) ∧
      (∀ k : Fin 64, F[k] = unpack3 (recordAt s.mem (byteOffset (k.val % 8) (k.val / 8) s.rot))) ∧
      t.mem = s.mem ∧ t.rot = s.rot ∧ t.env = rest ∧ t.todo = []

/-- SETPIXELS (45_host_sequences R96, R97), with a grid or a generator of valid Colors, under every order of the cells
and both values of `GEN_VALIDATE`: after 64 record writes every logical pixel holds its packed Color. `GEN_VALIDATE`
and the order of the cells as fields of the state, the generator as its table, and how steps are counted are the
model's choices, log entries 9, 10, 11 and 15. -/
def Obligations.SetPixelsWritesFrame : Prop :=
  ∀ (s : State) (f : Nat → Nat → Nat × Nat × Nat) (source : FrameSource) (rest : List EnvEvent),
    (∀ x y, x ≤ 7 → y ≤ 7 → ValidChannels (f x y)) →
    source = .grid (gridOf f) ∨ source = .generator (generatorOf f) →
    s.params.wf → s.Starts (.setPixels source) → s.NoExternalWriter → s.DeviceServes 64 rest →
    ∃ t, s.after 194 = .next t ∧ t.report = some .done ∧ t.rot = s.rot ∧ t.env = rest ∧ t.todo = [] ∧
      ∀ x y, x ≤ 7 → y ≤ 7 → recordAt t.mem (byteOffset x y s.rot) = packOf (f x y)

/-- SETPIXELS when the write of the k-th cell fails (45_host_sequences R96, 70_reset R132): DeviceUnavailable is
reported, the cells before it in the order hold their new records, it and the later ones their old. That a failed
record write leaves the record, and that the order of the cells is a field of the state, are the choices of log
entries 6 and 10. -/
def Obligations.SetPixelsFailureLeavesPrefix : Prop :=
  ∀ (s : State) (f : Nat → Nat → Nat × Nat × Nat) (k : Nat) (landed : BitVec 128) (rest : List EnvEvent),
    (∀ x y, x ≤ 7 → y ≤ 7 → ValidChannels (f x y)) → s.params.wf → k < 64 →
    s.Starts (.setPixels (.grid (gridOf f))) → s.NoExternalWriter →
    s.env = List.replicate k (.port .ok) ++ .port (.unavailable landed) :: rest →
    ∃ n t, 0 < n ∧ s.after n = .next t ∧ t.report = some (.error .deviceUnavailable) ∧ t.rot = s.rot ∧ t.env = rest ∧
      ∀ (j : Nat) (c : Fin 64), s.params.cellOrder[j]? = some c →
        recordAt t.mem (byteOffset (c.val % 8) (c.val / 8) s.rot) =
          if j < k then packOf (f (c.val % 8) (c.val / 8))
          else recordAt s.mem (byteOffset (c.val % 8) (c.val / 8) s.rot)

/-- SETPIXELS with a grid of a wrong shape (45_host_sequences R96, 60_exceptions R111): InvalidFrameShape with no
command issued and no I/O, under the default `ERR_ORDER`. `ERR_ORDER` as a field of the state, and how steps are
counted, are the model's choices, log entries 8 and 15. -/
def Obligations.WrongShapeIsRejected : Prop :=
  ∀ (s : State) (rows : List (List RawColor)),
    s.Starts (.setPixels (.grid rows)) → s.NoExternalWriter → s.params.setPixelsShapeFirst = true →
    ¬ (rows.length = 8 ∧ ∀ row ∈ rows, row.length = 8) →
    ∃ t, s.after 2 = .next t ∧ t.report = some (.error .invalidFrameShape) ∧ t.rsp = none ∧
      t.mem = s.mem ∧ t.rot = s.rot ∧ t.env = s.env ∧ t.draws = s.draws

/-- SETPIXELS with one bad colour anywhere (45_host_sequences R96, R97 with `GEN_VALIDATE` eager): InvalidColor, and
MEM and the device untouched. `GEN_VALIDATE` as a field of the state, and the generator as its table, are the model's
choices, log entries 9 and 11. -/
def Obligations.BadColourStopsBeforeWriting : Prop :=
  ∀ (s : State) (rows : List (List RawColor)) (cells : Vector RawColor 64) (source : FrameSource),
    (source = .grid rows ∧ rows.length = 8 ∧ (∀ row ∈ rows, row.length = 8) ∧
        ∃ row ∈ rows, ∃ c ∈ row, ¬ ∃ d, ValidChannels d ∧ c = rawOf d) ∨
      (source = .generator cells ∧ s.params.genValidate = .eager ∧ s.params.wf ∧
        ∃ k : Fin 64, ¬ ∃ d, ValidChannels d ∧ cells[k] = rawOf d) →
    s.Starts (.setPixels source) → s.NoExternalWriter →
    ∃ n t, 0 < n ∧ s.after n = .next t ∧ t.report = some (.error .invalidColor) ∧
      t.mem = s.mem ∧ t.rot = s.rot ∧ t.env = s.env ∧ t.draws = s.draws

/-- CLEAR, then GETPIXELS (45_host_sequences R98, R105): 64 entries (0, 0, 0); all 128 bytes zero; ROT unchanged. How
many steps this takes is counted by log entry 15, the model's choice. -/
def Obligations.ClearThenGetPixelsIsBlack : Prop :=
  ∀ (s : State) (rest : List EnvEvent), s.params.wf → s.todo = [] →
    s.program = [.sequence .clear, .sequence .getPixels] → s.NoExternalWriter → s.DeviceServes 65 rest →
    ∃ t F, s.after 325 = .next t ∧ t.report = some (.frame F) ∧ (∀ k : Fin 64, F[k] = ⟨0, 0, 0⟩) ∧
      (∀ a, a < 128 → Memory.byteAt t.mem a = 0) ∧ t.rot = s.rot ∧ t.env = rest

/-- GETROTATION (45_host_sequences R99): ROT in degrees, no I/O. How many steps this takes is counted by log entry 15,
the model's choice. -/
def Obligations.GetRotationReturnsDegrees : Prop :=
  ∀ s : State, s.Starts .getRotation → s.NoExternalWriter →
    ∃ t, s.after 3 = .next t ∧ t.report = some (.rotation s.rot.degrees) ∧
      t.mem = s.mem ∧ t.rot = s.rot ∧ t.env = s.env ∧ t.draws = s.draws

/-- SETROTATION preserves the picture (45_host_sequences R100, R101): every logical pixel reads as before, the records
are moved bit for bit, ROT is the new rotation. How many steps this takes is counted by log entry 15, the model's
choice. -/
def Obligations.SetRotationPreservesPicture : Prop :=
  ∀ (s : State) (v : Int) (r : Rotation) (rest : List EnvEvent), Rotation.ofDegrees v = some r → s.params.wf →
    s.Starts (.setRotation (.int v)) → s.NoExternalWriter → s.DeviceServes 65 rest →
    ∃ t, s.after 325 = .next t ∧ t.report = some .done ∧ t.rot = r ∧ t.env = rest ∧ t.todo = [] ∧
      ∀ x y, x ≤ 7 → y ≤ 7 → t.pixelColor x y = s.pixelColor x y ∧
        recordAt t.mem (byteOffset x y r) = recordAt s.mem (byteOffset x y s.rot)

/-- SETROTATION that fails (45_host_sequences R100): a bad rotation, no I/O; a failed read, ROT and MEM unchanged; a
failed write, ROT already new and the cells before it moved, the record of no later cell touched for that cell. That a
failed record write leaves the record, that the order of the cells is a field of the state, and how steps are counted
are the choices of log entries 6, 10 and 15. -/
def Obligations.SetRotationFailures : Prop :=
  (∀ (s : State) (a : Arg), (∀ v, a = .int v → Rotation.ofDegrees v = none) →
    s.Starts (.setRotation a) → s.NoExternalWriter →
    ∃ t, s.after 2 = .next t ∧ t.report = some (.error .invalidRotation) ∧
      t.mem = s.mem ∧ t.rot = s.rot ∧ t.env = s.env ∧ t.draws = s.draws) ∧
  (∀ (s : State) (v : Int) (r : Rotation) (landed : BitVec 128) (rest : List EnvEvent),
    Rotation.ofDegrees v = some r → s.Starts (.setRotation (.int v)) → s.NoExternalWriter →
    s.env = .port (.unavailable landed) :: rest →
    ∃ t, s.after 3 = .next t ∧ t.report = some (.error .deviceUnavailable) ∧ t.mem = s.mem ∧ t.rot = s.rot) ∧
  (∀ (s : State) (v : Int) (r : Rotation) (k : Nat) (landed : BitVec 128) (rest : List EnvEvent),
    Rotation.ofDegrees v = some r → s.params.wf → k < 64 → s.Starts (.setRotation (.int v)) →
    s.NoExternalWriter → s.env = List.replicate (k + 1) (.port .ok) ++ .port (.unavailable landed) :: rest →
    ∃ n t, 0 < n ∧ s.after n = .next t ∧ t.report = some (.error .deviceUnavailable) ∧ t.rot = r ∧
      ∀ (j : Nat) (c : Fin 64), s.params.cellOrder[j]? = some c →
        recordAt t.mem (byteOffset (c.val % 8) (c.val / 8) r) =
          if j < k then recordAt s.mem (byteOffset (c.val % 8) (c.val / 8) s.rot)
          else recordAt s.mem (byteOffset (c.val % 8) (c.val / 8) r))

/-- FLIPH reverses the columns and FLIPV the rows of the logical grid, bit for bit, whatever ROT is (45_host_sequences
R102, R103). How many steps this takes is counted by log entry 15, the model's choice. -/
def Obligations.FlipsReverseTheGrid : Prop :=
  ∀ (s : State) (rest : List EnvEvent), s.params.wf → s.NoExternalWriter → s.DeviceServes 65 rest →
    (s.Starts .flipH → ∃ t, s.after 323 = .next t ∧ t.report = some .done ∧ t.rot = s.rot ∧ t.env = rest ∧
      ∀ x y, x ≤ 7 → y ≤ 7 →
        recordAt t.mem (byteOffset x y s.rot) = recordAt s.mem (byteOffset (7 - x) y s.rot)) ∧
    (s.Starts .flipV → ∃ t, s.after 323 = .next t ∧ t.report = some .done ∧ t.rot = s.rot ∧ t.env = rest ∧
      ∀ x y, x ≤ 7 → y ≤ 7 →
        recordAt t.mem (byteOffset x y s.rot) = recordAt s.mem (byteOffset x (7 - y) s.rot))

/-- A flip done twice restores every byte (45_host_sequences R104). How many steps this takes is counted by log entry
15, the model's choice. -/
def Obligations.FlipsAreInvolutions : Prop :=
  ∀ (s : State) (op : HostOp) (rest : List EnvEvent), op = .flipH ∨ op = .flipV → s.params.wf → s.todo = [] →
    s.program = [.sequence op, .sequence op] → s.NoExternalWriter → s.DeviceServes 130 rest →
    ∃ t, s.after 646 = .next t ∧ t.report = some .done ∧ t.rot = s.rot ∧
      ∀ a, a < 128 → Memory.byteAt t.mem a = Memory.byteAt s.mem a

/-- FLIPH and FLIPV in either order reverse the 64 records end to end, under every rotation (45_host_sequences R103;
95_test_vectors H18). How many steps this takes is counted by log entry 15, the model's choice. -/
def Obligations.BothFlipsReverseTheRecords : Prop :=
  ∀ (s : State) (rest : List EnvEvent), s.params.wf → s.todo = [] →
    (s.program = [.sequence .flipH, .sequence .flipV] ∨ s.program = [.sequence .flipV, .sequence .flipH]) →
    s.NoExternalWriter → s.DeviceServes 130 rest →
    ∃ t, s.after 646 = .next t ∧ t.report = some .done ∧
      ∀ i, i < 64 → recordAt t.mem (2 * i) = recordAt s.mem (2 * (63 - i))

/-- Every admitted sequence ends and reports, whatever the device and external writers do, in a number of steps that
its expansion bounds; no expansion but that of a grid of a wrong shape is longer than SETROTATION's (70_reset R138). How
steps are counted is the model's choice: one for each micro-operation, one to take the sequence up and one to report
(log entry 15; hence 324 micro-operations, two more than R138 counts in SETROTATION), and one for each external write
between two steps of the host (log entry 5). -/
def Obligations.SequencesEnd : Prop :=
  (∀ (s : State) (op : HostOp), s.Safe → s.Starts op →
    ∃ n t r, 0 < n ∧ n ≤ 1 + (expand s.params op).length + s.env.length ∧ s.after n = .next t ∧ t.report = some r) ∧
  (∀ (p : Params) (op : HostOp), p.wf →
    (∀ rows, op = .setPixels (.grid rows) → rows.length = 8 ∧ ∀ row ∈ rows, row.length = 8) →
    (expand p op).length ≤ 324)

/-! ### Port operations among external writes -/

/-- Port operations among external writes (20_memory R38, R44; log entry 5). A READALL is no snapshot: whatever bytes
external writers put in the buffer while it runs, its copy can hold any mixture of old and new ones. A READAT can be
torn between its two bytes. A record write is atomic: both its bytes take effect after the same external writes, and on
every other byte these writes alone do. On each byte of a WRITEALL the external writes from that byte's moment on
stand. -/
def Obligations.PortOperationsAmongExternalWrites : Prop :=
  (∀ (s : State) (new : Vector Byte 128) (mask : BitVec 128) (rest : List EnvEvent), ∃ (i : Interference) (t : State),
    portReadAll { s with env := .portDuring .ok i :: rest } = .next t ∧
    ∀ (a : Nat) (h : a < 128), Memory.byteAt t.mem a = new[a] ∧
      t.scratch.buf[a] = if mask.getLsbD a then new[a] else Memory.byteAt s.mem a) ∧
  (∀ (off : Nat) (s : State) (v : Pixel) (rest : List EnvEvent), off % 2 = 0 → off ≤ 126 →
    ∃ (i : Interference) (t : State), portReadAt off 2 { s with env := .portDuring .ok i :: rest } = .next t ∧
      recordAt t.mem off = v ∧
      t.scratch.packs[0] = v.extractLsb' 8 8 ++ Memory.byteAt s.mem off) ∧
  (∀ (off : Nat) (p : Pixel) (s : State) (i : Interference) (rest : List EnvEvent), off % 2 = 0 → off ≤ 126 →
    s.env = .portDuring .ok i :: rest →
    ∃ t n, portWriteRecord off p s = .next t ∧ t = { s with mem := t.mem, env := rest } ∧
      recordAt t.mem off = recordAt (Memory.externalWrites (memWrite s.mem off 2 p.toNat) (i.writes.drop n)) off ∧
      ∀ a, a ≠ off → a ≠ off + 1 → Memory.byteAt t.mem a = Memory.byteAt (Memory.externalWrites s.mem i.writes) a) ∧
  (∀ (buf : Vector Byte 128) (s : State) (i : Interference) (rest : List EnvEvent),
    s.env = .portDuring .ok i :: rest →
    ∃ t, portWriteAll buf s = .next t ∧ t = { s with mem := t.mem, env := rest } ∧
      ∀ (a : Nat) (h : a < 128), Memory.byteAt t.mem a =
        Memory.byteAt (Memory.externalWrites (writeFrame s.mem buf) (i.writes.drop (i.moment a))) a)
end

