-- ==== Sys2Proof/Laws/Codec.lean ====
section
/-! SUPPORT. A result read by the host is the result the block gave (30_encoding R58). -/

namespace Sys2Proof.Machine

@[simp] theorem resPixel_pixelRes (p : Pixel) : resPixel (pixelRes p) = p := by
  apply BitVec.eq_of_getLsbD_eq
  intro i hi
  simp only [resPixel, pixelRes, BitVec.getLsbD_extractLsb', BitVec.getLsbD_setWidth, hi, decide_true, Bool.true_and]
  simp [show i < 24 by omega]

@[simp] theorem resColor_colorRes (c : Color) : resColor (colorRes c) = c := by
  obtain ⟨r, g, b⟩ := c
  simp only [resColor, colorRes, Color.mk.injEq]
  refine ⟨?_, ?_, ?_⟩ <;> apply BitVec.eq_of_getLsbD_eq <;> intro i hi <;>
    simp only [BitVec.getLsbD_extractLsb', BitVec.getLsbD_append, hi, decide_true, Bool.true_and]
  · simp [show ¬ 16 + i < 8 by omega, show ¬ 16 + i - 8 < 8 by omega, show 16 + i - 8 - 8 = i by omega]
  · simp [show ¬ 8 + i < 8 by omega, show 8 + i - 8 = i by omega, hi]
  · simp [hi]

@[simp] theorem resDegrees_rotationRes (r : Rotation) : resDegrees (rotationRes r) = r.degrees := by
  cases r <;> decide

/-- An offset below 128 is read back. -/
theorem toNat_resOffset_offsetRes {n : Nat} (h : n < 128) : (resOffset (offsetRes n)).toNat = n := by
  simp only [resOffset, offsetRes, BitVec.extractLsb'_toNat, BitVec.toNat_ofNat, Nat.shiftRight_zero]
  omega

/-- The index is below 64 for every pixel (41_rotator R77). -/
theorem idx_lt {x y : Nat} (hx : x ≤ 7) (hy : y ≤ 7) (rot : Rotation) : idx x y rot < 64 := by
  cases rot <;> simp only [idx] <;> omega

end Sys2Proof.Machine
end

