-- ==== Sys2Proof/Laws/State.lean ====
section
/-! SUPPORT. One lemma per field and update of State, so that no proof unfolds a record update. -/

namespace Sys2Proof.Machine

variable (s : State)

/-! ### setRot -/

@[simp] theorem State.setRot_rot (v : Rotation) : (s.setRot v).rot = v := rfl
@[simp] theorem State.setRot_rsp (v : Rotation) : (s.setRot v).rsp = s.rsp := rfl
@[simp] theorem State.setRot_mem (v : Rotation) : (s.setRot v).mem = s.mem := rfl
@[simp] theorem State.setRot_program (v : Rotation) : (s.setRot v).program = s.program := rfl
@[simp] theorem State.setRot_todo (v : Rotation) : (s.setRot v).todo = s.todo := rfl
@[simp] theorem State.setRot_scratch (v : Rotation) : (s.setRot v).scratch = s.scratch := rfl
@[simp] theorem State.setRot_report (v : Rotation) : (s.setRot v).report = s.report := rfl
@[simp] theorem State.setRot_env (v : Rotation) : (s.setRot v).env = s.env := rfl
@[simp] theorem State.setRot_draws (v : Rotation) : (s.setRot v).draws = s.draws := rfl
@[simp] theorem State.setRot_params (v : Rotation) : (s.setRot v).params = s.params := rfl

/-! ### setRsp -/

@[simp] theorem State.setRsp_rot (v : Option Rsp) : (s.setRsp v).rot = s.rot := rfl
@[simp] theorem State.setRsp_rsp (v : Option Rsp) : (s.setRsp v).rsp = v := rfl
@[simp] theorem State.setRsp_mem (v : Option Rsp) : (s.setRsp v).mem = s.mem := rfl
@[simp] theorem State.setRsp_program (v : Option Rsp) : (s.setRsp v).program = s.program := rfl
@[simp] theorem State.setRsp_todo (v : Option Rsp) : (s.setRsp v).todo = s.todo := rfl
@[simp] theorem State.setRsp_scratch (v : Option Rsp) : (s.setRsp v).scratch = s.scratch := rfl
@[simp] theorem State.setRsp_report (v : Option Rsp) : (s.setRsp v).report = s.report := rfl
@[simp] theorem State.setRsp_env (v : Option Rsp) : (s.setRsp v).env = s.env := rfl
@[simp] theorem State.setRsp_draws (v : Option Rsp) : (s.setRsp v).draws = s.draws := rfl
@[simp] theorem State.setRsp_params (v : Option Rsp) : (s.setRsp v).params = s.params := rfl

/-! ### setMem -/

@[simp] theorem State.setMem_rot (v : Memory) : (s.setMem v).rot = s.rot := rfl
@[simp] theorem State.setMem_rsp (v : Memory) : (s.setMem v).rsp = s.rsp := rfl
@[simp] theorem State.setMem_mem (v : Memory) : (s.setMem v).mem = v := rfl
@[simp] theorem State.setMem_program (v : Memory) : (s.setMem v).program = s.program := rfl
@[simp] theorem State.setMem_todo (v : Memory) : (s.setMem v).todo = s.todo := rfl
@[simp] theorem State.setMem_scratch (v : Memory) : (s.setMem v).scratch = s.scratch := rfl
@[simp] theorem State.setMem_report (v : Memory) : (s.setMem v).report = s.report := rfl
@[simp] theorem State.setMem_env (v : Memory) : (s.setMem v).env = s.env := rfl
@[simp] theorem State.setMem_draws (v : Memory) : (s.setMem v).draws = s.draws := rfl
@[simp] theorem State.setMem_params (v : Memory) : (s.setMem v).params = s.params := rfl

/-! ### setProgram -/

@[simp] theorem State.setProgram_rot (v : List Request) : (s.setProgram v).rot = s.rot := rfl
@[simp] theorem State.setProgram_rsp (v : List Request) : (s.setProgram v).rsp = s.rsp := rfl
@[simp] theorem State.setProgram_mem (v : List Request) : (s.setProgram v).mem = s.mem := rfl
@[simp] theorem State.setProgram_program (v : List Request) : (s.setProgram v).program = v := rfl
@[simp] theorem State.setProgram_todo (v : List Request) : (s.setProgram v).todo = s.todo := rfl
@[simp] theorem State.setProgram_scratch (v : List Request) : (s.setProgram v).scratch = s.scratch := rfl
@[simp] theorem State.setProgram_report (v : List Request) : (s.setProgram v).report = s.report := rfl
@[simp] theorem State.setProgram_env (v : List Request) : (s.setProgram v).env = s.env := rfl
@[simp] theorem State.setProgram_draws (v : List Request) : (s.setProgram v).draws = s.draws := rfl
@[simp] theorem State.setProgram_params (v : List Request) : (s.setProgram v).params = s.params := rfl

/-! ### setTodo -/

@[simp] theorem State.setTodo_rot (v : List MicroOp) : (s.setTodo v).rot = s.rot := rfl
@[simp] theorem State.setTodo_rsp (v : List MicroOp) : (s.setTodo v).rsp = s.rsp := rfl
@[simp] theorem State.setTodo_mem (v : List MicroOp) : (s.setTodo v).mem = s.mem := rfl
@[simp] theorem State.setTodo_program (v : List MicroOp) : (s.setTodo v).program = s.program := rfl
@[simp] theorem State.setTodo_todo (v : List MicroOp) : (s.setTodo v).todo = v := rfl
@[simp] theorem State.setTodo_scratch (v : List MicroOp) : (s.setTodo v).scratch = s.scratch := rfl
@[simp] theorem State.setTodo_report (v : List MicroOp) : (s.setTodo v).report = s.report := rfl
@[simp] theorem State.setTodo_env (v : List MicroOp) : (s.setTodo v).env = s.env := rfl
@[simp] theorem State.setTodo_draws (v : List MicroOp) : (s.setTodo v).draws = s.draws := rfl
@[simp] theorem State.setTodo_params (v : List MicroOp) : (s.setTodo v).params = s.params := rfl

/-! ### setScratch -/

@[simp] theorem State.setScratch_rot (v : Scratch) : (s.setScratch v).rot = s.rot := rfl
@[simp] theorem State.setScratch_rsp (v : Scratch) : (s.setScratch v).rsp = s.rsp := rfl
@[simp] theorem State.setScratch_mem (v : Scratch) : (s.setScratch v).mem = s.mem := rfl
@[simp] theorem State.setScratch_program (v : Scratch) : (s.setScratch v).program = s.program := rfl
@[simp] theorem State.setScratch_todo (v : Scratch) : (s.setScratch v).todo = s.todo := rfl
@[simp] theorem State.setScratch_scratch (v : Scratch) : (s.setScratch v).scratch = v := rfl
@[simp] theorem State.setScratch_report (v : Scratch) : (s.setScratch v).report = s.report := rfl
@[simp] theorem State.setScratch_env (v : Scratch) : (s.setScratch v).env = s.env := rfl
@[simp] theorem State.setScratch_draws (v : Scratch) : (s.setScratch v).draws = s.draws := rfl
@[simp] theorem State.setScratch_params (v : Scratch) : (s.setScratch v).params = s.params := rfl

/-! ### setReport -/

@[simp] theorem State.setReport_rot (v : Option Report) : (s.setReport v).rot = s.rot := rfl
@[simp] theorem State.setReport_rsp (v : Option Report) : (s.setReport v).rsp = s.rsp := rfl
@[simp] theorem State.setReport_mem (v : Option Report) : (s.setReport v).mem = s.mem := rfl
@[simp] theorem State.setReport_program (v : Option Report) : (s.setReport v).program = s.program := rfl
@[simp] theorem State.setReport_todo (v : Option Report) : (s.setReport v).todo = s.todo := rfl
@[simp] theorem State.setReport_scratch (v : Option Report) : (s.setReport v).scratch = s.scratch := rfl
@[simp] theorem State.setReport_report (v : Option Report) : (s.setReport v).report = v := rfl
@[simp] theorem State.setReport_env (v : Option Report) : (s.setReport v).env = s.env := rfl
@[simp] theorem State.setReport_draws (v : Option Report) : (s.setReport v).draws = s.draws := rfl
@[simp] theorem State.setReport_params (v : Option Report) : (s.setReport v).params = s.params := rfl

/-! ### setEnv -/

@[simp] theorem State.setEnv_rot (v : List EnvEvent) : (s.setEnv v).rot = s.rot := rfl
@[simp] theorem State.setEnv_rsp (v : List EnvEvent) : (s.setEnv v).rsp = s.rsp := rfl
@[simp] theorem State.setEnv_mem (v : List EnvEvent) : (s.setEnv v).mem = s.mem := rfl
@[simp] theorem State.setEnv_program (v : List EnvEvent) : (s.setEnv v).program = s.program := rfl
@[simp] theorem State.setEnv_todo (v : List EnvEvent) : (s.setEnv v).todo = s.todo := rfl
@[simp] theorem State.setEnv_scratch (v : List EnvEvent) : (s.setEnv v).scratch = s.scratch := rfl
@[simp] theorem State.setEnv_report (v : List EnvEvent) : (s.setEnv v).report = s.report := rfl
@[simp] theorem State.setEnv_env (v : List EnvEvent) : (s.setEnv v).env = v := rfl
@[simp] theorem State.setEnv_draws (v : List EnvEvent) : (s.setEnv v).draws = s.draws := rfl
@[simp] theorem State.setEnv_params (v : List EnvEvent) : (s.setEnv v).params = s.params := rfl

/-! ### setDraws -/

@[simp] theorem State.setDraws_rot (v : Nat) : (s.setDraws v).rot = s.rot := rfl
@[simp] theorem State.setDraws_rsp (v : Nat) : (s.setDraws v).rsp = s.rsp := rfl
@[simp] theorem State.setDraws_mem (v : Nat) : (s.setDraws v).mem = s.mem := rfl
@[simp] theorem State.setDraws_program (v : Nat) : (s.setDraws v).program = s.program := rfl
@[simp] theorem State.setDraws_todo (v : Nat) : (s.setDraws v).todo = s.todo := rfl
@[simp] theorem State.setDraws_scratch (v : Nat) : (s.setDraws v).scratch = s.scratch := rfl
@[simp] theorem State.setDraws_report (v : Nat) : (s.setDraws v).report = s.report := rfl
@[simp] theorem State.setDraws_env (v : Nat) : (s.setDraws v).env = s.env := rfl
@[simp] theorem State.setDraws_draws (v : Nat) : (s.setDraws v).draws = v := rfl
@[simp] theorem State.setDraws_params (v : Nat) : (s.setDraws v).params = s.params := rfl

/-! ### quiet -/

@[simp] theorem quiet_rot : (quiet s).rot = s.rot := rfl
@[simp] theorem quiet_rsp : (quiet s).rsp = none := rfl
@[simp] theorem quiet_mem : (quiet s).mem = s.mem := rfl
@[simp] theorem quiet_program : (quiet s).program = s.program := rfl
@[simp] theorem quiet_todo : (quiet s).todo = s.todo := rfl
@[simp] theorem quiet_scratch : (quiet s).scratch = s.scratch := rfl
@[simp] theorem quiet_report : (quiet s).report = none := rfl
@[simp] theorem quiet_env : (quiet s).env = s.env := rfl
@[simp] theorem quiet_draws : (quiet s).draws = s.draws := rfl
@[simp] theorem quiet_params : (quiet s).params = s.params := rfl

/-! ### finish and stop -/

@[simp] theorem finish_rot (r : Report) : (finish r s).rot = s.rot := rfl
@[simp] theorem finish_rsp (r : Report) : (finish r s).rsp = s.rsp := rfl
@[simp] theorem finish_mem (r : Report) : (finish r s).mem = s.mem := rfl
@[simp] theorem finish_program (r : Report) : (finish r s).program = s.program := rfl
@[simp] theorem finish_todo (r : Report) : (finish r s).todo = [] := rfl
@[simp] theorem finish_scratch (r : Report) : (finish r s).scratch = Scratch.empty := rfl
@[simp] theorem finish_report (r : Report) : (finish r s).report = some r := rfl
@[simp] theorem finish_env (r : Report) : (finish r s).env = s.env := rfl
@[simp] theorem finish_draws (r : Report) : (finish r s).draws = s.draws := rfl
@[simp] theorem finish_params (r : Report) : (finish r s).params = s.params := rfl

@[simp] theorem stop_rot (e : ErrorKind) : (stop e s).rot = s.rot := rfl
@[simp] theorem stop_rsp (e : ErrorKind) : (stop e s).rsp = s.rsp := rfl
@[simp] theorem stop_mem (e : ErrorKind) : (stop e s).mem = s.mem := rfl
@[simp] theorem stop_program (e : ErrorKind) : (stop e s).program = s.program := rfl
@[simp] theorem stop_todo (e : ErrorKind) : (stop e s).todo = [] := rfl
@[simp] theorem stop_scratch (e : ErrorKind) : (stop e s).scratch = Scratch.empty := rfl
@[simp] theorem stop_report (e : ErrorKind) : (stop e s).report = some (.error e) := rfl
@[simp] theorem stop_env (e : ErrorKind) : (stop e s).env = s.env := rfl
@[simp] theorem stop_draws (e : ErrorKind) : (stop e s).draws = s.draws := rfl
@[simp] theorem stop_params (e : ErrorKind) : (stop e s).params = s.params := rfl

/-! ### restart -/

@[simp] theorem State.restart_rot : s.restart.rot = State.reset.rot := rfl
@[simp] theorem State.restart_rsp : s.restart.rsp = State.reset.rsp := rfl
@[simp] theorem State.restart_mem : s.restart.mem = s.mem := rfl
@[simp] theorem State.restart_program : s.restart.program = State.reset.program := rfl
@[simp] theorem State.restart_todo : s.restart.todo = State.reset.todo := rfl
@[simp] theorem State.restart_scratch : s.restart.scratch = State.reset.scratch := rfl
@[simp] theorem State.restart_report : s.restart.report = State.reset.report := rfl
@[simp] theorem State.restart_env : s.restart.env = s.env := rfl
@[simp] theorem State.restart_draws : s.restart.draws = s.draws := rfl
@[simp] theorem State.restart_params : s.restart.params = s.params := rfl

end Sys2Proof.Machine
end

