-- ==== Sys2Proof/Laws/Command.lean ====
section
/-! SUPPORT. The fields of command and response words, and what answering a command and issuing one can do. -/

namespace Sys2Proof

/-! ### Command words -/

theorem opcField_commandWord (opc : BitVec 8) (a b c : Slot) : opcField (commandWord opc a b c) = opc := by
  apply BitVec.eq_of_getLsbD_eq
  intro i hi
  simp only [opcField, commandWord, BitVec.getLsbD_extractLsb', BitVec.getLsbD_append, hi, decide_true, Bool.true_and]
  simp [show ¬ 56 + i < 16 by omega, show ¬ 56 + i - 16 < 16 by omega, show ¬ 56 + i - 16 - 16 < 16 by omega,
    show ¬ 56 + i - 16 - 16 - 16 < 8 by omega, show 56 + i - 16 - 16 - 16 - 8 = i by omega]

theorem rsvField_commandWord (opc : BitVec 8) (a b c : Slot) : rsvField (commandWord opc a b c) = 0 := by
  apply BitVec.eq_of_getLsbD_eq
  intro i hi
  simp only [rsvField, commandWord, BitVec.getLsbD_extractLsb', BitVec.getLsbD_append, hi, decide_true, Bool.true_and]
  simp [show ¬ 48 + i < 16 by omega, show ¬ 48 + i - 16 < 16 by omega, show ¬ 48 + i - 16 - 16 < 16 by omega,
    show 48 + i - 16 - 16 - 16 < 8 by omega]

theorem slotA_commandWord (opc : BitVec 8) (a b c : Slot) : slotA (commandWord opc a b c) = a := by
  apply BitVec.eq_of_getLsbD_eq
  intro i hi
  simp only [slotA, commandWord, BitVec.getLsbD_extractLsb', BitVec.getLsbD_append, hi, decide_true, Bool.true_and]
  simp [show ¬ 32 + i < 16 by omega, show ¬ 32 + i - 16 < 16 by omega, show 32 + i - 16 - 16 = i by omega, hi]

theorem slotB_commandWord (opc : BitVec 8) (a b c : Slot) : slotB (commandWord opc a b c) = b := by
  apply BitVec.eq_of_getLsbD_eq
  intro i hi
  simp only [slotB, commandWord, BitVec.getLsbD_extractLsb', BitVec.getLsbD_append, hi, decide_true, Bool.true_and]
  simp [show ¬ 16 + i < 16 by omega, show 16 + i - 16 = i by omega, hi]

theorem slotC_commandWord (opc : BitVec 8) (a b c : Slot) : slotC (commandWord opc a b c) = c := by
  apply BitVec.eq_of_getLsbD_eq
  intro i hi
  simp only [slotC, commandWord, BitVec.getLsbD_extractLsb', BitVec.getLsbD_append, hi, decide_true, Bool.true_and]
  simp [hi]

/-- An integer that fits its slot is read back from it. -/
theorem sext16_toSlot {v : Int} (h : slotFits v = true) : sext16 (toSlot v) = v := by
  simp only [slotFits, Bool.and_eq_true, decide_eq_true_eq] at h
  rw [sext16, toSlot, BitVec.toInt_ofInt, Int.bmod_def]
  omega

/-- What a slot reads as fits a slot. -/
theorem slotFits_sext16 (v : Slot) : slotFits (sext16 v) = true := by
  have h1 := BitVec.toInt_lt (x := v)
  have h2 := BitVec.le_toInt (x := v)
  rw [slotFits, Bool.and_eq_true]
  exact ⟨decide_eq_true (by simp only [sext16]; omega), decide_eq_true (by simp only [sext16]; omega)⟩

/-- A slot is the slot of what it reads as. -/
theorem toSlot_sext16 (v : Slot) : toSlot (sext16 v) = v := BitVec.ofInt_toInt

namespace Machine

/-! ### Response words -/

theorem stField_responseWord (st : BitVec 4) (res : Res) : stField (responseWord st res) = st := by
  apply BitVec.eq_of_getLsbD_eq
  intro i hi
  simp only [stField, responseWord, BitVec.getLsbD_extractLsb', BitVec.getLsbD_append, hi, decide_true, Bool.true_and]
  simp [show ¬ 28 + i < 24 by omega, show ¬ 28 + i - 24 < 4 by omega, show 28 + i - 24 - 4 = i by omega]

theorem zeroField_responseWord (st : BitVec 4) (res : Res) : zeroField (responseWord st res) = 0 := by
  apply BitVec.eq_of_getLsbD_eq
  intro i hi
  simp only [zeroField, responseWord, BitVec.getLsbD_extractLsb', BitVec.getLsbD_append, hi, decide_true, Bool.true_and]
  simp [show ¬ 24 + i < 24 by omega, show 24 + i - 24 = i by omega, hi]

theorem resField_responseWord (st : BitVec 4) (res : Res) : resField (responseWord st res) = res := by
  apply BitVec.eq_of_getLsbD_eq
  intro i hi
  simp only [resField, responseWord, BitVec.getLsbD_extractLsb', BitVec.getLsbD_append, hi, decide_true, Bool.true_and]
  simp [hi]

@[simp] theorem statusOf_okWord (res : Res) : statusOf (okWord res) = .ok := by
  rw [statusOf, okWord, stField_responseWord, if_pos rfl]

@[simp] theorem resField_okWord (res : Res) : resField (okWord res) = res := resField_responseWord _ _

@[simp] theorem statusOf_errorWord (e : ErrorKind) : statusOf (errorWord e) = .error e := by
  rw [statusOf, errorWord, stField_responseWord]
  cases e <;> rfl

@[simp] theorem resField_errorWord (e : ErrorKind) : resField (errorWord e) = 0 := resField_responseWord _ _

/-! ### The shared operations -/

/-- Everything `respond` does. -/
theorem respond_eq (res : Res) (s : State) : respond res s = .next (s.setRsp (some (okWord res))) := rfl

/-- Everything `raise` does (60_exceptions R114). -/
theorem raise_eq (e : ErrorKind) (s : State) : raise e s = .next (s.setRsp (some (errorWord e))) := rfl

/-- A word that is the command `i` executes `i` (30_encoding R61). -/
theorem command_of_decode {w : Cmd} {i : Instr} (h : decode w = .ok i) (s : State) : command w s = exec i s := by
  rw [command, h]

/-- A word that is no command is answered with IllegalCommand (30_encoding R62). -/
theorem command_of_reject {w : Cmd} {e : Reject} (h : decode w = .error e) (s : State) :
    command w s = .next (s.setRsp (some (errorWord .illegalCommand))) := by
  rw [command, h]
  rfl

/-- Everything issuing a command does when the block answers OK: the host uses the result. -/
theorem issue_ok {i : Instr} {use : Res → State → State} {s t : State} {res : Res}
    (h : command (encode i) s = .next t) (hr : t.rsp = some (okWord res)) : issue i use s = .next (use res t) := by
  simp [issue, h, hr]

/-- Everything issuing a command does when the block answers with an error: the sequence stops with that kind. -/
theorem issue_error {i : Instr} {use : Res → State → State} {s t : State} {e : ErrorKind}
    (h : command (encode i) s = .next t) (hr : t.rsp = some (errorWord e)) :
    issue i use s = .next (stop e t) := by
  simp [issue, h, hr]

end Machine

end Sys2Proof
end

