-- ==== Sys2Proof/Laws/Memory.lean ====
section
/-! SUPPORT. The device buffer: what a read gives after a write, and that every operation keeps the canonical form. -/

namespace Sys2Proof.Machine

/-! ### One byte -/

@[simp] theorem Memory.stored_nil (a : Nat) : Memory.stored [] a = none := rfl

theorem Memory.stored_cons (b : Nat) (v : Byte) (m : Memory) (a : Nat) :
    Memory.stored ((b, v) :: m) a = if b = a then some v else Memory.stored m a := rfl

/-- Reading after writing one byte, at any address. -/
theorem Memory.stored_setByte (m : Memory) (a : Nat) (v : Byte) (x : Nat) :
    Memory.stored (Memory.setByte m a v) x = if x = a then some v else Memory.stored m x := by
  induction m with
  | nil => simp only [Memory.setByte, Memory.stored_cons, eq_comm (a := a)]
  | cons c m ih =>
    obtain ⟨b, u⟩ := c
    by_cases hlt : a < b
    · simp only [Memory.setByte, hlt, if_true, Memory.stored_cons, eq_comm (a := a)]
    · by_cases heq : a = b
      · subst heq
        by_cases hx : x = a
        · simp [Memory.setByte, Memory.stored_cons, hx]
        · simp [Memory.setByte, Memory.stored_cons, hx, Ne.symm hx]
      · simp only [Memory.setByte, hlt, heq, if_false, Memory.stored_cons, ih]
        by_cases hb : b = x
        · have : x ≠ a := fun h => heq (h.symm.trans hb.symm)
          simp [hb, this]
        · simp [hb]

/-- `MEM[x]` after `MEM[a] <- v`. -/
theorem Memory.byteAt_setByte (m : Memory) (a : Nat) (v : Byte) (x : Nat) :
    Memory.byteAt (Memory.setByte m a v) x = if x = a then v else Memory.byteAt m x := by
  unfold Memory.byteAt
  rw [Memory.stored_setByte]
  split <;> simp

theorem Memory.key_setByte {m : Memory} {a : Nat} {v : Byte} {c : Host.Cell}
    (h : c ∈ Memory.setByte m a v) : c.1 = a ∨ c ∈ m := by
  induction m with
  | nil => simp only [Memory.setByte, List.mem_singleton] at h; exact .inl (by rw [h])
  | cons d m ih =>
    obtain ⟨b, u⟩ := d
    simp only [Memory.setByte] at h
    split at h
    · rcases List.mem_cons.1 h with h | h
      · exact .inl (by rw [h])
      · exact .inr h
    · split at h
      · rcases List.mem_cons.1 h with h | h
        · exact .inl (by rw [h])
        · exact .inr (List.mem_cons_of_mem _ h)
      · rcases List.mem_cons.1 h with h | h
        · exact .inr (by rw [h]; exact List.mem_cons_self)
        · exact (ih h).imp_right (List.mem_cons_of_mem _)

/-- Writing a byte that exists keeps the canonical form. -/
theorem Memory.wf_setByte {m : Memory} {a : Nat} {v : Byte} (hm : Memory.wf m) (ha : a < Config.frameBytes) :
    Memory.wf (Memory.setByte m a v) := by
  refine ⟨?_, fun c hc => (Memory.key_setByte hc).elim (fun h => h ▸ ha) (hm.2 c)⟩
  have hp := hm.1
  clear hm
  induction m with
  | nil => simp [Memory.setByte]
  | cons d m ih =>
    obtain ⟨b, u⟩ := d
    obtain ⟨hd, hp⟩ := List.pairwise_cons.1 hp
    simp only [Memory.setByte]
    split
    · rename_i hlt
      refine List.pairwise_cons.2 ⟨fun c hc => ?_, List.pairwise_cons.2 ⟨hd, hp⟩⟩
      rcases List.mem_cons.1 hc with rfl | hc
      · exact hlt
      · exact Nat.lt_trans hlt (hd c hc)
    · split
      · rename_i heq
        exact List.pairwise_cons.2 ⟨fun c hc => by simpa [heq] using hd c hc, hp⟩
      · rename_i hlt hne
        refine List.pairwise_cons.2 ⟨fun c hc => ?_, ih hp⟩
        rcases Memory.key_setByte hc with h | h
        · simp only [h]; omega
        · exact hd c h

/-- A canonical memory lists nothing below its first address. -/
theorem Memory.stored_below {m : Memory} {x : Nat} (h : ∀ c ∈ m, x < c.1) : Memory.stored m x = none := by
  induction m with
  | nil => rfl
  | cons d m ih =>
    obtain ⟨b, u⟩ := d
    have hb : x < b := h (b, u) List.mem_cons_self
    rw [Memory.stored_cons, if_neg (by omega), ih fun c hc => h c (List.mem_cons_of_mem _ hc)]

/-- Equal memories are equal data: a canonical form is fixed by what it holds at each address. -/
theorem Memory.ext_stored {m n : Memory} (hm : Memory.wf m) (hn : Memory.wf n)
    (h : ∀ x, Memory.stored m x = Memory.stored n x) : m = n := by
  replace hm := hm.1
  replace hn := hn.1
  induction m generalizing n with
  | nil =>
    cases n with
    | nil => rfl
    | cons d n =>
      have := h d.1
      rw [show d = (d.1, d.2) from rfl, Memory.stored_cons] at this
      simp at this
  | cons c m ih =>
    cases n with
    | nil =>
      have := h c.1
      rw [show c = (c.1, c.2) from rfl, Memory.stored_cons] at this
      simp at this
    | cons d n =>
      obtain ⟨a, u⟩ := c
      obtain ⟨b, v⟩ := d
      obtain ⟨hc, hm'⟩ := List.pairwise_cons.1 hm
      obtain ⟨hd, hn'⟩ := List.pairwise_cons.1 hn
      have hab : a = b := by
        rcases Nat.lt_trichotomy a b with hlt | heq | hlt
        · have h1 := h a
          rw [Memory.stored_cons, if_pos rfl, Memory.stored_below] at h1
          · simp at h1
          · intro e he
            rcases List.mem_cons.1 he with rfl | he
            · exact hlt
            · exact Nat.lt_trans hlt (hd e he)
        · exact heq
        · have h1 := h b
          rw [Memory.stored_below, Memory.stored_cons, if_pos rfl] at h1
          · simp at h1
          · intro e he
            rcases List.mem_cons.1 he with rfl | he
            · exact hlt
            · exact Nat.lt_trans hlt (hc e he)
      subst hab
      have huv : u = v := by simpa [Memory.stored_cons] using h a
      subst huv
      congr 1
      refine ih (fun x => ?_) hm' hn'
      by_cases hx : a = x
      · subst hx
        rw [Memory.stored_below fun e he => hc e he, Memory.stored_below fun e he => hd e he]
      · simpa [Memory.stored_cons, hx] using h x

/-! ### Several bytes -/

/-- `MEM[x]` after a run of bytes has been written from `a`. -/
theorem Memory.byteAt_setBytes (m : Memory) (a : Nat) (vs : List Byte) (x : Nat) :
    Memory.byteAt (Memory.setBytes m a vs) x =
      if h : a ≤ x ∧ x - a < vs.length then vs[x - a]'h.2 else Memory.byteAt m x := by
  induction vs generalizing m a with
  | nil => simp [Memory.setBytes]
  | cons v vs ih =>
    rw [Memory.setBytes, ih, Memory.byteAt_setByte]
    by_cases hx : x = a
    · subst hx
      simp
    · by_cases h : a + 1 ≤ x ∧ x - (a + 1) < vs.length
      · have h' : a ≤ x ∧ x - a < (v :: vs).length := by simp only [List.length_cons]; omega
        rw [dif_pos h, dif_pos h']
        have hxa : x - a = (x - (a + 1)) + 1 := by omega
        simp [hxa]
      · have h' : ¬(a ≤ x ∧ x - a < (v :: vs).length) := by simp only [List.length_cons]; omega
        rw [dif_neg h, dif_neg h', if_neg hx]

theorem Memory.wf_setBytes {m : Memory} {a : Nat} {vs : List Byte} (hm : Memory.wf m)
    (ha : a + vs.length ≤ Config.frameBytes) : Memory.wf (Memory.setBytes m a vs) := by
  induction vs generalizing m a with
  | nil => exact hm
  | cons v vs ih =>
    simp only [List.length_cons] at ha
    exact ih (Memory.wf_setByte hm (by omega)) (by omega)

@[simp] theorem length_littleEndianBytes (n v : Nat) : (littleEndianBytes n v).length = n := by
  induction n generalizing v with
  | zero => rfl
  | succ n ih => simp [littleEndianBytes, ih]

theorem wf_memWrite {m : Memory} {addr n v : Nat} (hm : Memory.wf m) (h : addr + n ≤ Config.frameBytes) :
    Memory.wf (memWrite m addr n v) := Memory.wf_setBytes hm (by simpa using h)

/-- A byte outside the bytes written keeps its value. -/
theorem byteAt_memWrite_outside (m : Memory) {addr n v x : Nat} (h : x < addr ∨ addr + n ≤ x) :
    Memory.byteAt (memWrite m addr n v) x = Memory.byteAt m x := by
  rw [memWrite, Memory.byteAt_setBytes, dif_neg (by simp only [length_littleEndianBytes]; omega)]

/-! ### A record -/

/-- The two bytes of a record write (20_memory R33). -/
theorem byteAt_record (m : Memory) (off : Nat) (p : Pixel) (x : Nat) :
    Memory.byteAt (memWrite m off Config.recordBytes p.toNat) x =
      if x = off then p.extractLsb' 0 8 else if x = off + 1 then p.extractLsb' 8 8 else Memory.byteAt m x := by
  simp only [memWrite, Config.recordBytes, littleEndianBytes, Memory.setBytes, Memory.byteAt_setByte]
  have h1 : BitVec.ofNat 8 p.toNat = p.extractLsb' 0 8 := by
    apply BitVec.eq_of_toNat_eq; simp
  have h2 : BitVec.ofNat 8 (p.toNat >>> 8) = p.extractLsb' 8 8 := by
    apply BitVec.eq_of_toNat_eq; simp
  rw [h1, h2]
  by_cases hx : x = off
  · simp [hx]
  · simp [hx]

/-- The value of a record by its two bytes (20_memory R33). -/
theorem recordAt_eq (m : Memory) (off : Nat) :
    recordAt m off = Memory.byteAt m (off + 1) ++ Memory.byteAt m off := by
  apply BitVec.eq_of_toNat_eq
  simp only [recordAt, memRead, Config.recordBytes, Memory.bytesAt, littleEndian, BitVec.toNat_ofNat,
    BitVec.toNat_append]
  have h0 := (Memory.byteAt m off).isLt
  have h1 := (Memory.byteAt m (off + 1)).isLt
  rw [← Nat.shiftLeft_add_eq_or_of_lt h0]
  simp only [Nat.shiftLeft_eq]
  omega

/-- A record read back after it was written. -/
theorem recordAt_memWrite_same (m : Memory) (off : Nat) (p : Pixel) :
    recordAt (memWrite m off Config.recordBytes p.toNat) off = p := by
  rw [recordAt_eq, byteAt_record, byteAt_record, if_neg (by omega), if_pos rfl, if_pos rfl]
  apply BitVec.eq_of_getLsbD_eq
  intro i hi
  rw [BitVec.getLsbD_append]
  split
  · simp [*]
  · simp only [BitVec.getLsbD_extractLsb']
    have : 8 + (i - 8) = i := by omega
    simp [this]; omega

/-- A record at another even offset keeps its value. -/
theorem recordAt_memWrite_other (m : Memory) {off off' : Nat} (p : Pixel) (h : off % 2 = 0) (h' : off' % 2 = 0)
    (hne : off' ≠ off) : recordAt (memWrite m off Config.recordBytes p.toNat) off' = recordAt m off' := by
  simp only [recordAt_eq, byteAt_record]
  rw [if_neg (by omega), if_neg (by omega), if_neg (by omega), if_neg (by omega)]

/-! ### The whole frame -/

@[simp] theorem readFrame_get (m : Memory) (a : Nat) (h : a < 128) : (readFrame m)[a] = Memory.byteAt m a := by
  simp [readFrame]

/-- The record of a copied frame is the record of the buffer it was copied from. -/
theorem bufRecord_readFrame (m : Memory) (off : Offset) (h : off.toNat % 2 = 0) :
    bufRecord (readFrame m) off = some (recordAt m off.toNat) := by
  have hlt : off.toNat + 1 < 128 := by have := off.isLt; omega
  rw [bufRecord, dif_pos h, recordAt_eq, readFrame_get _ _ (by omega), readFrame_get _ _ hlt]
  congr 1
  apply BitVec.eq_of_getLsbD_eq
  intro i hi
  simp only [BitVec.getLsbD_or, BitVec.getLsbD_setWidth, BitVec.getLsbD_shiftLeft, BitVec.getLsbD_append, hi,
    decide_true, Bool.true_and]
  by_cases h8 : i < 8
  · simp [h8]
  · have hhi : (Memory.byteAt m off.toNat).getLsbD i = false := BitVec.getLsbD_of_ge _ _ (by omega)
    have : i - 8 < 16 := by omega
    simp [h8, hhi, this]

/-- `MEM[a]` after a successful WRITEALL. -/
theorem byteAt_writeFrame (m : Memory) (buf : Vector Byte 128) (a : Nat) (h : a < 128) :
    Memory.byteAt (writeFrame m buf) a = buf[a] := by
  rw [writeFrame, Memory.byteAt_setBytes, dif_pos (by simpa using h)]
  simp

theorem wf_writeFrame {m : Memory} (buf : Vector Byte 128) (hm : Memory.wf m) : Memory.wf (writeFrame m buf) :=
  Memory.wf_setBytes hm (by simp [Config.frameBytes])

theorem wf_foldl_setByte (f : Fin 128 → Bool) (g : Fin 128 → Byte) (l : List (Fin 128)) {m : Memory}
    (hm : Memory.wf m) :
    Memory.wf (l.foldl (fun m a => if f a then Memory.setByte m a.val (g a) else m) m) := by
  induction l generalizing m with
  | nil => exact hm
  | cons a l ih =>
    refine ih ?_
    dsimp only
    split
    · exact Memory.wf_setByte hm a.isLt
    · exact hm

theorem byteAt_foldl_setByte (f : Fin 128 → Bool) (g : Fin 128 → Byte) (l : List (Fin 128)) (m : Memory)
    (x : Fin 128) :
    Memory.byteAt (l.foldl (fun m a => if f a then Memory.setByte m a.val (g a) else m) m) x.val =
      if x ∈ l ∧ f x = true then g x else Memory.byteAt m x.val := by
  induction l generalizing m with
  | nil => simp
  | cons a l ih =>
    rw [List.foldl_cons, ih]
    by_cases hx : x = a
    · subst hx
      by_cases hf : f x = true <;> simp [hf, Memory.byteAt_setByte]
    · have hv : x.val ≠ a.val := fun h => hx (Fin.ext h)
      have hm : (x ∈ a :: l) ↔ x ∈ l := by simp [hx]
      simp only [hm]
      by_cases hf : f a = true <;> simp [hf, Memory.byteAt_setByte, hv]

theorem wf_writeLanded {m : Memory} (buf : Vector Byte 128) (landed : BitVec 128) (hm : Memory.wf m) :
    Memory.wf (writeLanded m buf landed) := wf_foldl_setByte (fun a => landed.getLsbD a.val) (fun a => buf[a]) _ hm

/-- `MEM[a]` after a failed WRITEALL: new where it landed, else old (20_memory R41). -/
theorem byteAt_writeLanded (m : Memory) (buf : Vector Byte 128) (landed : BitVec 128) (a : Fin 128) :
    Memory.byteAt (writeLanded m buf landed) a.val =
      if landed.getLsbD a.val then buf[a] else Memory.byteAt m a.val := by
  rw [writeLanded, byteAt_foldl_setByte (fun a => landed.getLsbD a.val) (fun a => buf[a])]
  simp

/-! ### Accesses among external writes -/

@[simp] theorem Memory.externalWrites_nil (m : Memory) : Memory.externalWrites m [] = m := rfl

@[simp] theorem Memory.externalWrites_cons (m : Memory) (w : ByteWrite) (ws : List ByteWrite) :
    Memory.externalWrites m (w :: ws) = Memory.externalWrites (Memory.setByte m w.1.toNat w.2) ws := rfl

theorem Memory.wf_externalWrites {m : Memory} (ws : List ByteWrite) (hm : Memory.wf m) :
    Memory.wf (Memory.externalWrites m ws) := by
  induction ws generalizing m with
  | nil => exact hm
  | cons w ws ih => exact ih (Memory.wf_setByte hm w.1.isLt)

/-- A byte after external writes depends on that byte before them and on nothing else of the buffer. -/
theorem Memory.byteAt_externalWrites_congr {m n : Memory} {a : Nat} (ws : List ByteWrite)
    (h : Memory.byteAt m a = Memory.byteAt n a) :
    Memory.byteAt (Memory.externalWrites m ws) a = Memory.byteAt (Memory.externalWrites n ws) a := by
  induction ws generalizing m n with
  | nil => exact h
  | cons w ws ih => exact ih (by rw [Memory.byteAt_setByte, Memory.byteAt_setByte, h])

/-- A byte no external writer writes is as before. -/
theorem Memory.byteAt_externalWrites_other (m : Memory) {a : Nat} {ws : List ByteWrite}
    (h : ∀ w ∈ ws, w.1.toNat ≠ a) : Memory.byteAt (Memory.externalWrites m ws) a = Memory.byteAt m a := by
  induction ws generalizing m with
  | nil => rfl
  | cons w ws ih =>
    rw [Memory.externalWrites_cons, ih _ fun v hv => h v (List.mem_cons_of_mem _ hv), Memory.byteAt_setByte,
      if_neg fun e => h w List.mem_cons_self e.symm]

theorem Interference.late_subset (i : Interference) {n : Nat} {ws : List ByteWrite} {w : ByteWrite}
    (h : w ∈ i.late n ws) : w ∈ ws := by
  induction ws generalizing n with
  | nil => exact h
  | cons v ws ih =>
    simp only [Interference.late] at h
    split at h
    · rcases List.mem_cons.1 h with rfl | h
      · exact List.mem_cons_self
      · exact List.mem_cons_of_mem _ (ih h)
    · exact List.mem_cons_of_mem _ (ih h)

/-- Of the late writes, those to byte `a` are the ones from its moment on. -/
theorem Interference.byteAt_late (i : Interference) (m : Memory) (a n : Nat) (ws : List ByteWrite) :
    Memory.byteAt (Memory.externalWrites m (i.late n ws)) a =
      Memory.byteAt (Memory.externalWrites m (ws.drop (i.moment a - n))) a := by
  induction ws generalizing m n with
  | nil => simp [Interference.late]
  | cons w ws ih =>
    by_cases hn : i.moment a ≤ n
    · rw [show i.moment a - n = 0 by omega, List.drop_zero]
      have hrest := fun m' => ih m' (n + 1)
      rw [show i.moment a - (n + 1) = 0 by omega] at hrest
      simp only [List.drop_zero] at hrest
      simp only [Interference.late]
      split
      · exact hrest _
      · rename_i hw
        have hne : a ≠ w.1.toNat := fun e => hw (e ▸ hn)
        rw [hrest]
        exact Memory.byteAt_externalWrites_congr ws (by rw [Memory.byteAt_setByte, if_neg hne])
    · rw [show i.moment a - n = (i.moment a - (n + 1)) + 1 by omega, List.drop_succ_cons, ← ih m]
      simp only [Interference.late]
      split
      · rename_i hw
        have hne : a ≠ w.1.toNat := fun e => hn (e ▸ hw)
        rw [Memory.externalWrites_cons]
        exact Memory.byteAt_externalWrites_congr _ (by rw [Memory.byteAt_setByte, if_neg hne])
      · rfl

@[simp] theorem Interference.seen_none (m : Memory) (a : Nat) : Interference.none.seen m a = Memory.byteAt m a := by
  simp [Interference.seen, Interference.none]

/-- With nobody interfering a READALL copies the buffer as it stands. -/
@[simp] theorem Interference.readFrame_none (m : Memory) : Interference.none.readFrame m = Machine.readFrame m := by
  simp [Interference.readFrame, Machine.readFrame]

@[simp] theorem Interference.readRecord_none (m : Memory) (off : Nat) :
    Interference.none.readRecord m off = recordAt m off := by
  simp [Interference.readRecord, recordAt, memRead, Memory.bytesAt, Config.recordBytes]

/-- A record that is read by its two bytes, each at its own moment. -/
theorem Interference.readRecord_eq (i : Interference) (m : Memory) (off : Nat) :
    i.readRecord m off = i.seen m (off + 1) ++ i.seen m off := by
  apply BitVec.eq_of_toNat_eq
  simp only [Interference.readRecord, littleEndian, BitVec.toNat_ofNat, BitVec.toNat_append]
  have h0 := (i.seen m off).isLt
  have h1 := (i.seen m (off + 1)).isLt
  rw [← Nat.shiftLeft_add_eq_or_of_lt h0]
  simp only [Nat.shiftLeft_eq]
  omega

@[simp] theorem Interference.writeRecord_none (m : Memory) (off : Nat) (p : Pixel) :
    Interference.none.writeRecord m off p = memWrite m off Config.recordBytes p.toNat := by
  simp [Interference.writeRecord, Interference.none]

@[simp] theorem Interference.writeMany_none (write : Memory → Memory) (m : Memory) :
    Interference.none.writeMany write m = write m := rfl

theorem Interference.wf_writeRecord (i : Interference) {m : Memory} {off : Nat} (p : Pixel) (hm : Memory.wf m)
    (h : off + 2 ≤ Config.frameBytes) : Memory.wf (i.writeRecord m off p) :=
  Memory.wf_externalWrites _ (wf_memWrite (Memory.wf_externalWrites _ hm) h)

theorem Interference.wf_writeMany (i : Interference) {write : Memory → Memory} {m : Memory}
    (hw : ∀ n, Memory.wf n → Memory.wf (write n)) (hm : Memory.wf m) : Memory.wf (i.writeMany write m) :=
  Memory.wf_externalWrites _ (hw _ (Memory.wf_externalWrites _ hm))

/-- A byte after a record write among external writes: the record's two bytes are under the external writes from one
moment on, every other byte is under all of them. -/
theorem Interference.byteAt_writeRecord (i : Interference) (m : Memory) (off : Nat) (p : Pixel) (a : Nat) :
    Memory.byteAt (i.writeRecord m off p) a =
      if a = off ∨ a = off + 1 then
        Memory.byteAt (Memory.externalWrites (memWrite m off Config.recordBytes p.toNat) (i.writes.drop (i.moment off))) a
      else Memory.byteAt (Memory.externalWrites m i.writes) a := by
  split
  · rename_i h
    refine Memory.byteAt_externalWrites_congr _ ?_
    rcases h with rfl | rfl <;> simp [byteAt_record]
  · rename_i h
    obtain ⟨ha, hb⟩ := not_or.1 h
    conv => rhs; rw [← List.take_append_drop (i.moment off) i.writes, Memory.externalWrites, List.foldl_append]
    refine Memory.byteAt_externalWrites_congr _ ?_
    rw [byteAt_record, if_neg ha, if_neg hb]
    rfl

/-- The byte of a copy is the byte at its own moment. -/
@[simp] theorem Interference.readFrame_get (i : Interference) (m : Memory) (a : Nat) (h : a < 128) :
    (i.readFrame m)[a] = i.seen m a := by
  simp [Interference.readFrame]

/-- A byte after a write of many bytes: what `write` puts there, then the external writes from its moment on. -/
theorem Interference.byteAt_writeMany (i : Interference) (write : Memory → Memory) (m : Memory) (a : Nat) :
    Memory.byteAt (i.writeMany write m) a = Memory.byteAt (Memory.externalWrites
      (write (Memory.externalWrites m i.writes)) (i.writes.drop (i.moment a))) a := by
  rw [Interference.writeMany, Interference.byteAt_late, Nat.sub_zero]

theorem wf_reset : Memory.wf State.reset.mem := by decide

end Sys2Proof.Machine
end

