-- ==== Sys2Proof/Laws/PerInstr.lean ====
section
/-! SUPPORT. A statement about every command as syntax, one lemma per constructor. -/

namespace Sys2Proof.Laws.RowFields

/-- The word of a command carries its row's opcode, and the row's `match` bits under its `mask` (30_encoding R60):
`RSV` and every slot the command does not use are zero. -/
def Statement (i : Instr) : Prop :=
  opcField (encode i) = i.mnemonic.opcode ∧ encode i &&& i.mnemonic.maskBits = i.mnemonic.matchBits

theorem pack (r g b : Int) : Statement (.pack r g b) := by
  refine ⟨opcField_commandWord _ _ _ _, BitVec.eq_of_getLsbD_eq fun i hi => ?_⟩
  simp only [encode, commandWord, Instr.mnemonic, Mnemonic.maskBits, BitVec.getLsbD_and, BitVec.getLsbD_append]
  interval_cases i <;> simp [Mnemonic.opcode, Mnemonic.matchBits]

theorem unpack (p : Pixel) : Statement (.unpack p) := by
  refine ⟨opcField_commandWord _ _ _ _, BitVec.eq_of_getLsbD_eq fun i hi => ?_⟩
  simp only [encode, commandWord, Instr.mnemonic, Mnemonic.maskBits, BitVec.getLsbD_and, BitVec.getLsbD_append]
  interval_cases i <;> simp [Mnemonic.opcode, Mnemonic.matchBits]

theorem boff (x y rot : Int) : Statement (.boff x y rot) := by
  refine ⟨opcField_commandWord _ _ _ _, BitVec.eq_of_getLsbD_eq fun i hi => ?_⟩
  simp only [encode, commandWord, Instr.mnemonic, Mnemonic.maskBits, BitVec.getLsbD_and, BitVec.getLsbD_append]
  interval_cases i <;> simp [Mnemonic.opcode, Mnemonic.matchBits]

theorem boffr (x y : Int) : Statement (.boffr x y) := by
  refine ⟨opcField_commandWord _ _ _ _, BitVec.eq_of_getLsbD_eq fun i hi => ?_⟩
  simp only [encode, commandWord, Instr.mnemonic, Mnemonic.maskBits, BitVec.getLsbD_and, BitVec.getLsbD_append]
  interval_cases i <;> simp [Mnemonic.opcode, Mnemonic.matchBits]

theorem setrot (rot : Int) : Statement (.setrot rot) := by
  refine ⟨opcField_commandWord _ _ _ _, BitVec.eq_of_getLsbD_eq fun i hi => ?_⟩
  simp only [encode, commandWord, Instr.mnemonic, Mnemonic.maskBits, BitVec.getLsbD_and, BitVec.getLsbD_append]
  interval_cases i <;> simp [Mnemonic.opcode, Mnemonic.matchBits]

theorem getrot : Statement .getrot := ⟨opcField_commandWord _ _ _ _, by decide⟩

end Sys2Proof.Laws.RowFields
end

