-- ==== Sys2Proof/Laws/Port.lean ====
section
/-! SUPPORT. What a port operation can do. -/

namespace Sys2Proof.Machine

/-- Where the script holds the outcome, it is that one, and nobody interferes. -/
theorem takeOutcome_script {s : State} {o : PortOutcome} {rest : List EnvEvent} (h : s.env = .port o :: rest) :
    takeOutcome s = (o, .none, s.setEnv rest) := by
  simp [takeOutcome, h]

/-- Where the script holds an outcome with external writes in the midst of the operation, it is these. -/
theorem takeOutcome_during {s : State} {o : PortOutcome} {i : Interference} {rest : List EnvEvent}
    (h : s.env = .portDuring o i :: rest) : takeOutcome s = (o, i, s.setEnv rest) := by
  simp [takeOutcome, h]

/-- Taking an outcome changes nothing but the script and the count of draws. -/
theorem takeOutcome_frame (s : State) :
    ∃ env draws, (takeOutcome s).2.2 = (s.setEnv env).setDraws draws := by
  unfold takeOutcome
  split
  · rename_i o rest h
    exact ⟨rest, s.draws, rfl⟩
  · rename_i o i rest h
    exact ⟨rest, s.draws, rfl⟩
  · exact ⟨s.env, s.draws + 1, rfl⟩

/-- External writes in the midst of an operation come from the script only. -/
theorem takeOutcome_interference (s : State) :
    (takeOutcome s).2.1 = .none ∨ ∃ o rest, s.env = .portDuring o (takeOutcome s).2.1 :: rest := by
  unfold takeOutcome
  split
  · exact .inl rfl
  · rename_i o i rest h
    exact .inr ⟨o, rest, h⟩
  · exact .inl rfl

@[simp] theorem afterWrites_none (s : State) : afterWrites .none s = s := rfl

@[simp] theorem failPort_none (s : State) : failPort .none s = stop .deviceUnavailable s := rfl

@[simp] theorem afterWrites_mem (i : Interference) (s : State) :
    (afterWrites i s).mem = Memory.externalWrites s.mem i.writes := rfl

@[simp] theorem failPort_mem (i : Interference) (s : State) :
    (failPort i s).mem = Memory.externalWrites s.mem i.writes := rfl

/-- Everything WRITERECORD does at an admitted offset (45_host_sequences R89). -/
theorem portWriteRecord_cases {off : Nat} (p : Pixel) (s : State) (h : recordOffsetOk off = true) :
    (∃ i t, takeOutcome s = (.ok, i, t) ∧ portWriteRecord off p s = .next (t.setMem (i.writeRecord t.mem off p))) ∨
    (∃ landed i t, takeOutcome s = (.unavailable landed, i, t) ∧ portWriteRecord off p s = .next (failPort i t)) := by
  rcases ho : takeOutcome s with ⟨o, i, t⟩
  cases o with
  | ok => exact .inl ⟨i, t, rfl, by simp [portWriteRecord, h, ho]⟩
  | unavailable landed => exact .inr ⟨landed, i, t, rfl, by simp [portWriteRecord, h, ho]⟩

/-- WRITERECORD at an offset the spec does not admit (20_memory R37). -/
theorem portWriteRecord_refused {off : Nat} (p : Pixel) (s : State) (h : recordOffsetOk off = false) :
    portWriteRecord off p s = .refused .recordOffset := by
  simp [portWriteRecord, h]

/-- Everything READALL does (45_host_sequences R90). -/
theorem portReadAll_cases (s : State) :
    (∃ i t, takeOutcome s = (.ok, i, t) ∧
      portReadAll s = .next ((afterWrites i t).setScratch { t.scratch with buf := i.readFrame t.mem })) ∨
    (∃ landed i t, takeOutcome s = (.unavailable landed, i, t) ∧ portReadAll s = .next (failPort i t)) := by
  rcases ho : takeOutcome s with ⟨o, i, t⟩
  cases o with
  | ok => exact .inl ⟨i, t, rfl, by simp [portReadAll, ho]⟩
  | unavailable landed => exact .inr ⟨landed, i, t, rfl, by simp [portReadAll, ho]⟩

/-- Everything WRITEALL does (45_host_sequences R91). -/
theorem portWriteAll_cases (buf : Vector Byte 128) (s : State) :
    (∃ i t, takeOutcome s = (.ok, i, t) ∧
      portWriteAll buf s = .next (t.setMem (i.writeMany (writeFrame · buf) t.mem))) ∨
    (∃ landed i t, takeOutcome s = (.unavailable landed, i, t) ∧ portWriteAll buf s =
      .next (stop .deviceUnavailable (t.setMem (i.writeMany (writeLanded · buf landed) t.mem)))) := by
  rcases ho : takeOutcome s with ⟨o, i, t⟩
  cases o with
  | ok => exact .inl ⟨i, t, rfl, by simp [portWriteAll, ho]⟩
  | unavailable landed => exact .inr ⟨landed, i, t, rfl, by simp [portWriteAll, ho]⟩

/-- Everything READAT does at a record's offset (45_host_sequences R92). -/
theorem portReadAt_cases {off : Nat} (s : State) (h : recordOffsetOk off = true) :
    (∃ i t, takeOutcome s = (.ok, i, t) ∧ portReadAt off 2 s = .next ((afterWrites i t).setScratch
      { t.scratch with packs := t.scratch.packs.set 0 (i.readRecord t.mem off) })) ∨
    (∃ landed i t, takeOutcome s = (.unavailable landed, i, t) ∧ portReadAt off 2 s = .next (failPort i t)) := by
  rcases ho : takeOutcome s with ⟨o, i, t⟩
  cases o with
  | ok => exact .inl ⟨i, t, rfl, by simp [portReadAt, Config.recordBytes, h, ho]⟩
  | unavailable landed => exact .inr ⟨landed, i, t, rfl, by simp [portReadAt, Config.recordBytes, h, ho]⟩

end Sys2Proof.Machine
end

