-- ==== Sys2Proof/Laws/Sequences.lean ====
section
/-! SUPPORT. What one step of the host does in each of its cases, and how runs compose. -/

namespace Sys2Proof.Machine

/-! ### One step of the host -/

theorem hostStep_micro {s : State} {m : MicroOp} {rest : List MicroOp} (h : s.todo = m :: rest) :
    hostStep s = microStep m (s.setTodo rest) := by
  simp [hostStep, h]

theorem hostStep_command {s : State} {w : Cmd} {rest : List Request} (ht : s.todo = [])
    (hp : s.program = .command w :: rest) : hostStep s = command w (s.setProgram rest) := by
  simp [hostStep, ht, hp]

theorem hostStep_sequence {s : State} {op : HostOp} {rest : List Request} (ht : s.todo = [])
    (hp : s.program = .sequence op :: rest) : hostStep s = .next (beginSequence op (s.setProgram rest)) := by
  simp [hostStep, ht, hp]

/-- With no external write due the host moves. -/
theorem agentStep_host {s : State} (h : ∀ a v rest, s.env ≠ .external a v :: rest) : agentStep s = hostStep s := by
  unfold agentStep
  split
  · rename_i a v rest he
    exact absurd he (h a v rest)
  · rfl

/-- NO_EXTERNAL_WRITER: no external write is due. -/
theorem State.NoExternalWriter.none_due {s : State} (h : s.NoExternalWriter) :
    ∀ a v rest, s.env ≠ .external a v :: rest := by
  intro a v rest he
  have := h (.external a v) (by rw [he]; exact List.mem_cons_self)
  simp [EnvEvent.isExternal] at this

/-- NO_EXTERNAL_WRITER: nobody interferes with a port operation, and the premise still holds after it. -/
theorem takeOutcome_noExternalWriter {s : State} (h : s.NoExternalWriter) :
    (takeOutcome s).2.1 = .none ∧ (takeOutcome s).2.2.NoExternalWriter := by
  unfold takeOutcome
  split
  · rename_i o rest he
    exact ⟨rfl, fun e hm => h e (by rw [he]; exact List.mem_cons_of_mem _ hm)⟩
  · rename_i o i rest he
    have := h (.portDuring o i) (by rw [he]; exact List.mem_cons_self)
    simp [EnvEvent.isExternal] at this
  · exact ⟨rfl, h⟩

/-! ### Runs -/

@[simp] theorem State.after_zero (s : State) : s.after 0 = .next s := rfl

/-- One more step at the front of a run. -/
theorem State.after_succ {s t : State} (h : step s = .next t) (k : Nat) : s.after (k + 1) = t.after k := by
  simp only [State.after, Host.Core.run]
  rw [show Sys2Proof.core.step s = .next t from h]

/-- Runs compose. -/
theorem State.after_add {s t : State} {m : Nat} (h : s.after m = .next t) (n : Nat) : s.after (m + n) = t.after n := by
  induction m generalizing s with
  | zero =>
    rw [State.after_zero] at h
    cases h
    rw [Nat.zero_add]
  | succ m ih =>
    rcases hs : step s with u | f | r
    · rw [State.after_succ hs] at h
      rw [show m + 1 + n = (m + n) + 1 by omega, State.after_succ hs, ih h]
    · simp only [State.after, Host.Core.run, show Sys2Proof.core.step s = .fault f from hs] at h
      cases h
    · simp only [State.after, Host.Core.run, show Sys2Proof.core.step s = .refused r from hs] at h
      cases h

end Sys2Proof.Machine
end

