-- ==== Sys2Proof/Tests/Slice0.lean ====
section
/-! SUPPORT. Tests. Expected values come from 95_test_vectors (section numbers below) or from the rule a test names; the
witness theorems show a state and operands that meet the hypotheses of each statement. -/

namespace Sys2Proof.Machine.Tests

/-! ### Well-formedness: one ill-formed command per check (30_encoding R57) -/

theorem test_illformed_pack : (Instr.pack 32768 0 0).wellFormed = false ∧ (Instr.pack 0 (-32769) 0).wellFormed = false ∧
    (Instr.pack 0 0 70000).wellFormed = false := by decide

theorem test_illformed_boff : (Instr.boff 32768 0 0).wellFormed = false ∧ (Instr.boff 0 32768 0).wellFormed = false ∧
    (Instr.boff 0 0 (-32769)).wellFormed = false := by decide

theorem test_illformed_boffr : (Instr.boffr (-32769) 0).wellFormed = false ∧ (Instr.boffr 0 32768).wellFormed = false := by
  decide

theorem test_illformed_setrot : (Instr.setrot 32768).wellFormed = false := by decide

theorem test_wellformed_bounds : (Instr.pack 32767 (-32768) 256).wellFormed = true := by decide

/-! ### Decoding: words written out from 30_encoding R56 and R60, or taken from 95_test_vectors section 2 -/

theorem test_decode_pack : decode 0x0100_00FF_0080_0000 = .ok (.pack 255 128 0) := by decide

theorem test_decode_pack_signed : decode 0x0100_FFFF_0100_8000 = .ok (.pack (-1) 256 (-32768)) := by decide

theorem test_decode_unpack : decode 0x0200_0000_0000_FC00 = .ok (.unpack 0xFC00) := by decide

theorem test_decode_boff : decode 0x0300_0003_0005_010E = .ok (.boff 3 5 270) := by decide

theorem test_decode_boffr : decode 0x0400_0003_0005_0000 = .ok (.boffr 3 5) := by decide

theorem test_decode_setrot : decode 0x0500_0000_0000_00B4 = .ok (.setrot 180) := by decide

theorem test_decode_getrot : decode 0x0600_0000_0000_0000 = .ok .getrot := by decide

/-- 95_test_vectors section 2.5, with the case of 30_encoding R62. -/
theorem test_decode_illegal : decode 0x0000_0000_0000_0000 = .error .unassignedOpcode ∧
    decode 0x0700_0000_0000_0000 = .error .unassignedOpcode ∧ decode 0x0101_00FF_00FF_00FF = .error .reservedField ∧
    decode 0x0200_0001_0000_FFFF = .error .unusedSlot ∧ decode 0x0200_0000_0001_FFFF = .error .unusedSlot ∧
    decode 0x0500_0001_0000_005A = .error .unusedSlot ∧ decode 0x0600_0000_005A_0000 = .error .unusedSlot := by decide

theorem test_encode_pack : encode (.pack 0 (-1) 300) = 0x0100_0000_FFFF_012C := by decide

theorem test_encode_boff : encode (.boff 0 0 (-90)) = 0x0300_0000_0000_FFA6 := by decide

theorem test_decodeTableWord : decodeTableWord 64 0x0500_0000_0000_005A = some (.setrot 90) ∧
    decodeTableWord 64 0 = none ∧ decodeTableWord 72 0x0600_0000_0000_0000 = none := by decide

/-! ### Commands: one step on a small state -/

/-- The response of a step. -/
def rspOf (o : Host.Outcome State Fault Refusal) : Option Rsp :=
  match o with
  | .next t => t.rsp
  | _ => none

/-- The rotation after a step. -/
def rotOf (o : Host.Outcome State Fault Refusal) : Option Rotation :=
  match o with
  | .next t => some t.rot
  | _ => none

/-- The report of a step. -/
def reportOf (o : Host.Outcome State Fault Refusal) : Option Report :=
  match o with
  | .next t => t.report
  | _ => none

/-- The memory after a step. -/
def memOf (o : Host.Outcome State Fault Refusal) : Memory :=
  match o with
  | .next t => t.mem
  | _ => []

/-- The refusal of a step. -/
def refusalOf (o : Host.Outcome State Fault Refusal) : Option Refusal :=
  match o with
  | .refused r => some r
  | _ => none

/-- A state with this rotation, about to be given this word. -/
def given (rot : Rotation) (w : Nat) : State := (State.reset.setRot rot).withFetchWord 64 w

/-- Section 2.1: `PACK 200, 100, 50`. -/
theorem test_pack : rspOf (step (given .r0 0x0100_00C8_0064_0032)) = some 0x0000_CB26 := by decide

/-- Section 2.1: `PACK 0, -1, 0`. -/
theorem test_pack_negative : rspOf (step (given .r0 0x0100_0000_FFFF_0000)) = some 0x1000_0000 := by decide

/-- Section 2.2: `UNPACK 0xABCD`. -/
theorem test_unpack : rspOf (step (given .r0 0x0200_0000_0000_ABCD)) = some 0x00A8_7868 := by decide

/-- Section 2.2: `UNPACK 0x8000`, bit 15 the top bit of red. -/
theorem test_unpack_top : rspOf (step (given .r0 0x0200_0000_0000_8000)) = some 0x0080_0000 := by decide

/-- Section 2.3: `BOFF 3, 5, 270`, whatever ROT is. -/
theorem test_boff : rspOf (step (given .r90 0x0300_0003_0005_010E)) = some 0x0000_004A := by decide

/-- Section 2.3: `BOFF 8, 0, 45`, both wrong. -/
theorem test_boff_both_wrong : rspOf (step (given .r0 0x0300_0008_0000_002D)) = some 0x2000_0000 := by decide

/-- Section 2.4 row 9: `BOFFR 3, 5` with ROT = 180. -/
theorem test_boffr : rspOf (step (given .r180 0x0400_0003_0005_0000)) = some 0x0000_0028 := by decide

/-- Section 2.4 row 15: `BOFFR 0, -1`. -/
theorem test_boffr_negative : rspOf (step (given .r270 0x0400_0000_FFFF_0000)) = some 0x2000_0000 := by decide

/-- Section 2.4 row 11: `SETROT 270`. -/
theorem test_setrot : rotOf (step (given .r180 0x0500_0000_0000_010E)) = some .r270 := by decide

/-- Section 2.4 row 16: `SETROT 360` leaves ROT at 270. -/
theorem test_setrot_360 : rotOf (step (given .r270 0x0500_0000_0000_0168)) = some .r270 ∧
    rspOf (step (given .r270 0x0500_0000_0000_0168)) = some 0x3000_0000 := by decide

/-- Section 2.4 row 13: `GETROT` with ROT = 270. -/
theorem test_getrot : rspOf (step (given .r270 0x0600_0000_0000_0000)) = some 0x0000_010E := by decide

/-- Section 2.5: the all-ones word. -/
theorem test_illegal : rspOf (step (given .r180 0xFFFF_FFFF_FFFF_FFFF)) = some 0x6000_0000 := by decide

/-! ### The host: one step of a sequence -/

/-- A state in the middle of a sequence. -/
def busy (m : MicroOp) (off : Offset) (p : Pixel) (env : List EnvEvent) : State :=
  { State.reset with
    rot := .r90
    todo := [m]
    scratch := { Scratch.empty with off := off, packs := Scratch.empty.packs.set 0 p }
    env := env }

/-- 45_host_sequences R89: `WRITERECORD 52, 0xFC00`. -/
theorem test_writeRecord :
    memOf (step (busy (.writePack 0) 52 0xFC00 [.port .ok])) = [(52, 0x00), (53, 0xFC)] := by decide

/-- 20_memory R41: a failed record write changes nothing and is reported. -/
theorem test_writeRecord_fails :
    memOf (step (busy (.writePack 0) 52 0xFC00 [.port (.unavailable 0)])) = [] ∧
    reportOf (step (busy (.writePack 0) 52 0xFC00 [.port (.unavailable 0)])) = some (.error .deviceUnavailable) := by
  decide

/-- 20_memory R37: an odd offset is refused. -/
theorem test_writeRecord_odd :
    refusalOf (step (busy (.writeRecord 51 0) 0 0 [.port .ok])) = some .recordOffset := by decide

/-- 20_memory R44: an external write due comes before the host's access. -/
theorem test_external :
    memOf (step (busy (.writePack 0) 52 0xFC00 [.external 7 0xAB, .port .ok])) = [(7, 0xAB)] := by decide

/-- 20_memory R38: a READALL is no snapshot. Byte 0 is read before the two external writes, byte 1 between them, byte 2
after them; each writer writes its byte once. -/
def torn : Interference where
  writes := [(0, 0xAA), (2, 0xBB)]
  before := [0, 1, 2]

/-- The first three bytes of the copy a step made. -/
def copyOf (o : Host.Outcome State Fault Refusal) : List Byte :=
  match o with
  | .next t => t.scratch.buf.toList.take 3
  | _ => []

theorem test_readAll_no_snapshot :
    let s := { busy .readAll 0 0 [.portDuring .ok torn] with mem := [(0, 1), (1, 2), (2, 3)] }
    copyOf (step s) = [1, 2, 0xBB] ∧ memOf (step s) = [(0, 0xAA), (1, 2), (2, 0xBB)] := by decide

/-- 20_memory R38: both bytes of a record are written at one moment, here before any external write, though byte 1 has a
later moment of its own. -/
theorem test_writeRecord_atomic :
    memOf (step (busy (.writePack 0) 0 0xFC00 [.portDuring .ok { torn with writes := [(1, 0xAA), (7, 0xBB)] }])) =
      [(0, 0x00), (1, 0xAA), (7, 0xBB)] := by decide

/-- Section 3 H6: both wrong, the colour is reported. -/
theorem test_setPixel_colour_first :
    reportOf (step (busy (.pack (.given [.int 256, .int 0, .int 0]) 0) 0 0 [])) = some (.error .invalidColor) := by decide

/-- 60_exceptions R108: a colour of two channels. -/
theorem test_pack_arity :
    reportOf (step (busy (.pack (.given [.int 0, .int 0]) 0) 0 0 [])) = some (.error .invalidColor) := by decide

/-- The inverse table of section 4, record 26 at 90. -/
theorem test_inverse : cellOfRecord 26 .r90 = (3, 5) ∧ idx 3 5 .r90 = 26 := by decide

/-- 20_memory R31: writing keeps the addresses rising. -/
theorem test_canonical : Memory.wf (Memory.setByte (Memory.setByte [] 9 1) 3 2) := by decide

/-! ### The assembler (30_encoding R65) -/

theorem test_assemble : assembleLine "PACK 255, 0x80, -1 ; red".toList = some 0x0100_00FF_0080_FFFF := by decide

theorem test_assemble_refuses : assembleLine "SETROT 65536".toList = none := by decide

/-- 00_scope R11, log entry 20: `_` separates digits, and is no literal by itself or at an end of one. -/
theorem test_assemble_underscore : assembleLine "BOFF 0_3, 0x0_5, 2__70".toList = some 0x0300_0003_0005_010E ∧
    assembleLine "SETROT _".toList = none ∧ assembleLine "SETROT -_".toList = none ∧
    assembleLine "SETROT 0x_".toList = none ∧ assembleLine "SETROT 90_".toList = none := by decide

theorem test_assemble_hex : assembleLine "UNPACK 0xabCD".toList = some 0x0200_0000_0000_ABCD ∧
    assembleLine "UNPACK 0xG".toList = none ∧ assembleLine "UNPACK 1A".toList = none := by decide

theorem test_response_text : responseText .UNPACK 0x00F8_FCF8 = some "-> OK (248, 252, 248)".toList ∧
    responseText .BOFF 0x2000_0000 = some "-> InvalidCoordinate".toList := by decide

/-! ### Witnesses for the hypotheses of the statements -/

theorem witness_DecodeEncodeRoundTrip : (Instr.boff (-32768) 32767 90).wellFormed = true := by decide

theorem witness_EncodeInvertsDecode : decode 0x0400_0003_0005_0000 = .ok (.boffr 3 5) := by decide

theorem witness_OpcodeMapDecides : (0x0600_0000_0000_0000 : Cmd) &&& Mnemonic.GETROT.maskBits = Mnemonic.GETROT.matchBits := by
  decide

/-- `OPC = 7`, `RSV` not 0 and each slot that must be 0. -/
theorem witness_IllegalWordsAnswered :
    7 ≤ ((0x0700_0000_0000_0000 : Cmd).extractLsb' 56 8).toNat ∧ (0x0101_0000_0000_0000 : Cmd).extractLsb' 48 8 ≠ 0 ∧
    (0x0200_0001_0000_0000 : Cmd).extractLsb' 32 16 ≠ 0 ∧ (0x0400_0000_0000_0001 : Cmd).extractLsb' 0 16 ≠ 0 ∧
    (0x0500_0000_0001_0000 : Cmd).extractLsb' 16 16 ≠ 0 ∧ (0x0600_0000_0000_0001 : Cmd).extractLsb' 0 16 ≠ 0 := by decide

theorem witness_AssembledPackDecodes : (-32768 : Int) ≤ 65535 ∧ (65535 : Int) < 65536 ∧ (-32769 : Int) < -32768 := by decide

/-- In range at both ends, and out of range on either side. -/
theorem witness_PackMeaning : ((0 : Int) ≤ 255 ∧ (255 : Int) ≤ 255) ∧ (255 : Int) < 256 ∧ (-1 : Int) < 0 := by decide

theorem witness_UnpackMeaning : (1 : Slot) ≠ 0 ∨ (0 : Slot) ≠ 0 := by decide

theorem witness_TruncationLaw : 255 ≤ 255 ∧ 7 ≤ 255 ∧ 0 ≤ 255 := by decide

/-- Each clause: a pixel at the corner; a coordinate on either side; a rotation that is none of the four. -/
theorem witness_BoffMeaning : (7 ≤ 7 ∧ 0 ≤ 7) ∧ ((7 : Int) < 8 ∧ (-1 : Int) < 0 ∧ State.reset.params.boffCoordinateFirst = true) ∧
    ((0 : Int) ≤ 7 ∧ (360 : Int) ≠ 0 ∧ (360 : Int) ≠ 90 ∧ (360 : Int) ≠ 180 ∧ (360 : Int) ≠ 270) := by decide

theorem witness_BoffOtherErrorOrder : (7 : Int) < 8 ∧
    ({ State.reset with params := { Params.spec with boffCoordinateFirst := false } } : State).params.boffCoordinateFirst =
      false := by decide

theorem witness_BoffrMeaning : (90 : Slot) ≠ 0 ∧ (7 ≤ 7 ∧ 0 ≤ 7) ∧ ((-1 : Int) < 0 ∧ (7 : Int) < 8) := by decide

theorem witness_SetrotMeaning : (1 : Int) ≠ 0 ∧ (1 : Int) ≠ 90 ∧ (1 : Int) ≠ 180 ∧ (1 : Int) ≠ 270 := by decide

theorem witness_GetrotMeaning : (0x0600_0000_0000_0001 : Cmd).extractLsb' 56 8 = 0x06#8 ∧
    (0x0600_0000_0000_0001 : Cmd) ≠ 0x0600_0000_0000_0000 := by decide

/-- The first and the last offset. -/
theorem witness_OffsetsAreABijection : (7 ≤ 7 ∧ 0 ≤ 7) ∧ (0 % 2 = 0 ∧ 0 ≤ 126) ∧ (126 % 2 = 0 ∧ 126 ≤ 126) := by decide

theorem witness_InverseMappingInverts : 63 < 64 ∧ 7 ≤ 7 ∧ 0 ≤ 7 := by decide

theorem witness_MappingsAreQuarterTurns : 7 ≤ 7 ∧ 0 ≤ 7 := by decide

theorem witness_CommandFrame : ∃ t, exec (.setrot 90) State.reset = .next t ∧ ∀ v, Instr.pack 0 0 0 ≠ .setrot v :=
  ⟨_, rfl, fun _ h => (nomatch h)⟩

theorem witness_ErrorsChangeNothing : ∃ t r, command 0 State.reset = .next t ∧ t.rsp = some r ∧ r.extractLsb' 28 4 ≠ 0 :=
  ⟨_, 0x6000_0000, rfl, by decide, by decide⟩

theorem witness_ResponseDependsOnWordAndRot : ∃ t t', State.reset.params = (State.reset.setRot .r90).params ∧
    command 0x0100_0000_0000_0000 State.reset = .next t ∧
    command 0x0100_0000_0000_0000 (State.reset.setRot .r90) = .next t' ∧
    (0x0100_0000_0000_0000 : Cmd).extractLsb' 56 8 ≠ 0x04#8 ∧ (0x0100_0000_0000_0000 : Cmd).extractLsb' 56 8 ≠ 0x06#8 :=
  ⟨_, _, rfl, rfl, rfl, by decide, by decide⟩

theorem witness_OnlySetrotWritesRot : ∃ t, step (given .r0 0x0500_0000_0000_005A) = .next t ∧ t.rot ≠ (given .r0 0).rot :=
  ⟨_, rfl, by decide⟩

/-- A byte known to be 0 is overwritten by an external write of 1. -/
theorem witness_OnlyWritesChangeMemory : ∃ t,
    step { State.reset with mem := [(0, 0)], env := [.external 0 1] } = .next t ∧
      Memory.byteAt t.mem 0 ≠ Memory.byteAt [(0, 0)] 0 := ⟨_, rfl, by decide⟩

/-- A state whose next step gives the command port this word. -/
theorem witness_StepRunsDecodedInstruction : (given .r0 0x0600_0000_0000_0000).todo = [] ∧
    (given .r0 0x0600_0000_0000_0000).program = [.command 0x0600_0000_0000_0000] ∧
    (∀ a v events, (given .r0 0x0600_0000_0000_0000).env ≠ .external a v :: events) ∧
    decode 0x0600_0000_0000_0000 = .ok .getrot := by
  refine ⟨rfl, rfl, fun a v events h => (nomatch h), by decide⟩

theorem witness_StepAnswersIllegalWord : (given .r0 0).todo = [] ∧ (given .r0 0).program = [.command 0] ∧
    (∀ a v events, (given .r0 0).env ≠ .external a v :: events) ∧ decode 0 = .error .unassignedOpcode := by
  refine ⟨rfl, rfl, fun a v events h => (nomatch h), by decide⟩

theorem witness_StepIdles : State.reset.todo = [] ∧ State.reset.program = [] ∧
    ∀ a v events, State.reset.env ≠ .external a v :: events := ⟨rfl, rfl, fun _ _ _ h => (nomatch h)⟩

theorem witness_ExternalWriteChangesOneByte :
    ({ State.reset with env := [.external 127 0xFF] } : State).env = .external 127 0xFF :: [] := rfl

theorem reset_inv : State.reset.Inv :=
  ⟨by decide, ⟨by decide, List.nodup_finRange 64⟩, rfl, fun _ h => (nomatch h)⟩

theorem witness_StepKeepsInvariant : ∃ t, State.reset.Inv ∧ step State.reset = .next t := ⟨_, reset_inv, rfl⟩

theorem witness_SafeSystemNeverStops :
    State.Safe { State.reset with program := [.command 0, .sequence (.writeRecord 126 0xFC00)] } := by
  refine ⟨⟨by decide, ⟨by decide, List.nodup_finRange 64⟩, rfl, fun _ h => (nomatch h)⟩, fun _ h => (nomatch h), ?_⟩
  decide

theorem witness_StepKeepsParameters : ∃ t, step State.reset = .next t := ⟨_, rfl⟩

/-- Each clause at the last offset, and the two kinds of offset that are refused. -/
theorem witness_WriteRecordMeaning : (126 % 2 = 0 ∧ 126 ≤ 126) ∧
    (busy .readAll 0 0 [.port .ok]).env = [.port .ok] ∧
    (busy .readAll 0 0 [.port (.unavailable 0)]).env = [.port (.unavailable 0)] ∧ (127 % 2 = 1) ∧ 126 < 128 :=
  ⟨by decide, rfl, rfl, by decide, by decide⟩

theorem witness_ReadAllMeaning : (busy .readAll 0 0 [.port .ok]).env = [.port .ok] ∧
    (busy .readAll 0 0 [.port (.unavailable 1)]).env = [.port (.unavailable 1)] ∧ 127 < 128 ∧ (126 : Offset).toNat % 2 = 0 :=
  ⟨rfl, rfl, by decide, by decide⟩

theorem witness_WriteAllMeaning : (busy .readAll 0 0 [.port .ok]).env = [.port .ok] ∧
    (busy .readAll 0 0 [.port (.unavailable 1)]).env = [.port (.unavailable 1)] ∧ 127 < 128 := ⟨rfl, rfl, by decide⟩

theorem witness_ReadAtWriteAtMeaning : (126 % 2 = 0 ∧ 126 ≤ 126 ∧ (busy .readAll 0 0 [.port .ok]).env = [.port .ok]) ∧
    127 % 2 = 1 ∧ 126 < 128 ∧ 3 ≠ 2 ∧ ([0, 0, 0] : List Byte).length ≠ 2 :=
  ⟨⟨by decide, by decide, rfl⟩, by decide, by decide, by decide, by decide⟩

/-- Each clause with hypotheses: the last offset, and a script with external writes during the operation. -/
theorem witness_PortOperationsAmongExternalWrites : (126 % 2 = 0 ∧ 126 ≤ 126) ∧
    (busy .readAll 0 0 [.portDuring .ok torn]).env = .portDuring .ok torn :: [] ∧ 127 < 128 := ⟨by decide, rfl, by decide⟩

/-! Sequences: a host about to take up `ops`, with this script before it. -/

/-- A host with these sequences before it, and this script. -/
def host (ops : List HostOp) (env : List EnvEvent) : State :=
  { State.reset with program := ops.map .sequence, env := env }

/-- A script of port outcomes has no external writer. -/
theorem script_of_outcomes (ops : List HostOp) (os : List PortOutcome) :
    (host ops (os.map .port)).NoExternalWriter := by
  intro e h
  obtain ⟨o, _, rfl⟩ := List.mem_map.1 h
  rfl

/-- The device serves `n` operations. -/
theorem serves (ops : List HostOp) (n : Nat) :
    (host ops ((List.replicate n PortOutcome.ok).map .port)).NoExternalWriter ∧
    (host ops ((List.replicate n PortOutcome.ok).map .port)).DeviceServes n [] :=
  ⟨script_of_outcomes ops _, by simp [State.DeviceServes, host]⟩

/-- The device serves `k` operations and fails the next. -/
theorem fails_after (ops : List HostOp) (k : Nat) :
    (host ops ((List.replicate k PortOutcome.ok ++ [PortOutcome.unavailable 0]).map .port)).NoExternalWriter ∧
    (host ops ((List.replicate k PortOutcome.ok ++ [PortOutcome.unavailable 0]).map .port)).env =
      List.replicate k (.port .ok) ++ .port (.unavailable 0) :: [] :=
  ⟨script_of_outcomes ops _, by simp [host]⟩

theorem starts (op : HostOp) (env : List EnvEvent) : (host [op] env).Starts op := ⟨rfl, rfl⟩

theorem params_wf (ops : List HostOp) (env : List EnvEvent) : (host ops env).params.wf :=
  ⟨by simp [host, State.reset, Params.spec, Config.rowMajor], List.nodup_finRange 64⟩

/-- A colour in range for every cell. -/
theorem channels_valid : ∀ x y : Nat, x ≤ 7 → y ≤ 7 → ValidChannels ((fun _ _ => (255, 128, 0)) x y) := by
  intro x y _ _
  change ValidChannels (255, 128, 0)
  decide

/-- `SETPIXEL 8, 0, 0, 0, 0` (section 1.1 X5) ends with a validation error. -/
theorem witness_ValidationComesBeforeIO : ∃ t,
    (host [.setPixel (.int 8) (.int 0) [.int 0, .int 0, .int 0]] []).Starts (.setPixel (.int 8) (.int 0) [.int 0, .int 0, .int 0]) ∧
    (host [.setPixel (.int 8) (.int 0) [.int 0, .int 0, .int 0]] []).NoExternalWriter ∧
    (host [.setPixel (.int 8) (.int 0) [.int 0, .int 0, .int 0]] []).params.genValidate = .eager ∧
    (host [.setPixel (.int 8) (.int 0) [.int 0, .int 0, .int 0]] []).after 3 = .next t ∧
    t.report = some (.error .invalidCoordinate) ∧ ErrorKind.invalidCoordinate ≠ .deviceUnavailable :=
  ⟨_, ⟨rfl, rfl⟩, fun _ h => (nomatch h), rfl, rfl, by decide, by decide⟩

theorem witness_GetPixelMeaning :
    (7 ≤ 7 ∧ 0 ≤ 7 ∧ ∃ s : State, s.Starts (.getPixel (.int (7 : Nat)) (.int (0 : Nat))) ∧ s.NoExternalWriter ∧ s.DeviceServes 1 []) ∧
    ((7 : Int) < 8 ∧ ∃ s : State, s.Starts (.getPixel (.int 0) (.int 8)) ∧ s.NoExternalWriter) :=
  ⟨⟨by decide, by decide, _, starts _ _, serves _ 1⟩, by decide, _, starts _ _, (serves _ 0).1⟩

theorem witness_SetPixelWritesOneRecord : 7 ≤ 7 ∧ 0 ≤ 7 ∧ ValidChannels (255, 128, 0) ∧
    ∃ s : State, s.Starts (.setPixel (.int (7 : Nat)) (.int (0 : Nat)) (rawOf (255, 128, 0))) ∧
      s.NoExternalWriter ∧ s.DeviceServes 1 [] :=
  ⟨by decide, by decide, by decide, _, starts _ _, serves _ 1⟩

theorem witness_SetPixelErrors : (∃ s : State, s.Starts (.setPixel .notInteger (.int 0) []) ∧ s.NoExternalWriter) ∧
    ¬ ((∃ d : Nat × Nat × Nat, ValidChannels d ∧ ([] : RawColor) = rawOf d) ∧
      ∃ u v : Nat, u ≤ 7 ∧ v ≤ 7 ∧ Arg.notInteger = .int u ∧ Arg.int 0 = .int v) :=
  ⟨⟨_, starts _ _, (serves _ 0).1⟩, fun ⟨⟨_, _, h⟩, _⟩ => (nomatch h)⟩

theorem witness_GetPixelsReturnsFrame :
    ∃ s : State, s.Starts .getPixels ∧ s.NoExternalWriter ∧ s.DeviceServes 1 [] := ⟨_, starts _ _, serves _ 1⟩

theorem witness_SetPixelsWritesFrame :
    (∀ x y : Nat, x ≤ 7 → y ≤ 7 → ValidChannels ((fun _ _ => (255, 128, 0)) x y)) ∧
    (∃ s : State, s.params.wf ∧ s.Starts (.setPixels (.grid (gridOf fun _ _ => (255, 128, 0)))) ∧ s.NoExternalWriter ∧
      s.DeviceServes 64 []) ∧
    ∃ s : State, s.params.wf ∧ s.Starts (.setPixels (.generator (generatorOf fun _ _ => (255, 128, 0)))) ∧
      s.NoExternalWriter ∧ s.DeviceServes 64 [] :=
  ⟨channels_valid, ⟨_, params_wf _ _, starts _ _, serves _ 64⟩, _, params_wf _ _, starts _ _, serves _ 64⟩

/-- The first and the last cell. -/
theorem witness_SetPixelsFailureLeavesPrefix : ∀ k, k = 0 ∨ k = 63 → k < 64 ∧
    (∀ x y : Nat, x ≤ 7 → y ≤ 7 → ValidChannels ((fun _ _ => (255, 128, 0)) x y)) ∧
    ∃ s : State, s.params.wf ∧ s.Starts (.setPixels (.grid (gridOf fun _ _ => (255, 128, 0)))) ∧ s.NoExternalWriter ∧
      s.env = List.replicate k (.port .ok) ++ .port (.unavailable 0) :: [] :=
  fun k h => ⟨by omega, channels_valid, _, params_wf _ _, starts _ _, fails_after _ k⟩

theorem witness_WrongShapeIsRejected : (∃ s : State, s.Starts (.setPixels (.grid [])) ∧ s.NoExternalWriter ∧
    s.params.setPixelsShapeFirst = true) ∧ ¬ (([] : List (List RawColor)).length = 8 ∧ ∀ row ∈ ([] : List (List RawColor)), row.length = 8) :=
  ⟨⟨host _ _, starts _ _, (serves _ 0).1, rfl⟩, by decide⟩

theorem empty_colour_bad : ¬ ∃ d : Nat × Nat × Nat, ValidChannels d ∧ ([] : RawColor) = rawOf d :=
  fun ⟨_, _, h⟩ => (nomatch h)

/-- A grid, and a generator, whose colours have no channel. -/
theorem witness_BadColourStopsBeforeWriting :
    (∃ s : State, s.Starts (.setPixels (.grid (List.replicate 8 (List.replicate 8 [])))) ∧ s.NoExternalWriter) ∧
    (∃ row ∈ List.replicate 8 (List.replicate 8 ([] : RawColor)), ∃ c ∈ row,
      ¬ ∃ d : Nat × Nat × Nat, ValidChannels d ∧ c = rawOf d) ∧
    (∀ row ∈ List.replicate 8 (List.replicate 8 ([] : RawColor)), row.length = 8) ∧
    ∃ s : State, s.Starts (.setPixels (.generator (Vector.replicate 64 []))) ∧ s.NoExternalWriter ∧
      s.params.genValidate = .eager ∧ s.params.wf ∧
      ¬ ∃ d : Nat × Nat × Nat, ValidChannels d ∧ (Vector.replicate 64 ([] : RawColor))[(0 : Fin 64)] = rawOf d :=
  ⟨⟨_, starts _ _, (serves _ 0).1⟩, ⟨_, List.mem_cons_self, [], List.mem_cons_self, empty_colour_bad⟩, by decide,
    host _ _, starts _ _, (serves _ 0).1, rfl, params_wf _ _, fun ⟨_, _, h⟩ => (nomatch h)⟩

theorem witness_ClearThenGetPixelsIsBlack : ∃ s : State, s.params.wf ∧ s.todo = [] ∧
    s.program = [.sequence .clear, .sequence .getPixels] ∧ s.NoExternalWriter ∧ s.DeviceServes 65 [] :=
  ⟨host [.clear, .getPixels] _, params_wf _ _, rfl, rfl, serves _ 65⟩

theorem witness_GetRotationReturnsDegrees : ∃ s : State, s.Starts .getRotation ∧ s.NoExternalWriter :=
  ⟨_, starts _ _, (serves _ 0).1⟩

theorem witness_SetRotationPreservesPicture : Rotation.ofDegrees 270 = some .r270 ∧
    ∃ s : State, s.params.wf ∧ s.Starts (.setRotation (.int 270)) ∧ s.NoExternalWriter ∧ s.DeviceServes 65 [] :=
  ⟨rfl, _, params_wf _ _, starts _ _, serves _ 65⟩

/-- Each clause: a bad rotation, a failed read, a failed write of the last cell. -/
theorem witness_SetRotationFailures :
    ((∀ v, Arg.notInteger = .int v → Rotation.ofDegrees v = none) ∧ (∀ v, Arg.int 360 = .int v → Rotation.ofDegrees v = none) ∧
      ∃ s : State, s.Starts (.setRotation (.int 360)) ∧ s.NoExternalWriter) ∧
    (∃ s : State, s.Starts (.setRotation (.int 90)) ∧ s.NoExternalWriter ∧ s.env = .port (.unavailable 0) :: []) ∧
    Rotation.ofDegrees 90 = some .r90 ∧ 63 < 64 ∧
    ∃ s : State, s.params.wf ∧ s.Starts (.setRotation (.int 90)) ∧ s.NoExternalWriter ∧
      s.env = List.replicate (63 + 1) (.port .ok) ++ .port (.unavailable 0) :: [] :=
  ⟨⟨fun _ h => (nomatch h), fun v h => by cases h; rfl, _, starts _ _, (serves _ 0).1⟩,
    ⟨_, starts _ _, fails_after _ 0⟩, rfl, by decide, _, params_wf _ _, starts _ _, fails_after _ 64⟩

theorem witness_FlipsReverseTheGrid :
    (∃ s : State, s.params.wf ∧ s.NoExternalWriter ∧ s.DeviceServes 65 [] ∧ s.Starts .flipH) ∧
    ∃ s : State, s.params.wf ∧ s.NoExternalWriter ∧ s.DeviceServes 65 [] ∧ s.Starts .flipV :=
  ⟨⟨_, params_wf _ _, (serves _ 65).1, (serves _ 65).2, starts _ _⟩,
    _, params_wf _ _, (serves _ 65).1, (serves _ 65).2, starts _ _⟩

theorem witness_FlipsAreInvolutions : ∀ op, op = .flipH ∨ op = .flipV → ∃ s : State, s.params.wf ∧ s.todo = [] ∧
    s.program = [.sequence op, .sequence op] ∧ s.NoExternalWriter ∧ s.DeviceServes 130 [] :=
  fun op _ => ⟨host [op, op] _, params_wf _ _, rfl, rfl, serves _ 130⟩

theorem witness_BothFlipsReverseTheRecords : ∃ s : State, s.params.wf ∧ s.todo = [] ∧
    s.program = [.sequence .flipH, .sequence .flipV] ∧ s.NoExternalWriter ∧ s.DeviceServes 130 [] :=
  ⟨host [.flipH, .flipV] _, params_wf _ _, rfl, rfl, serves _ 130⟩

theorem witness_SequencesEnd : (∃ s : State, s.Safe ∧ s.Starts .flipH) ∧ Params.spec.wf ∧
    (∀ rows, HostOp.flipH = .setPixels (.grid rows) → rows.length = 8 ∧ ∀ row ∈ rows, row.length = 8) := by
  refine ⟨⟨host [.flipH] [], ⟨⟨by decide, params_wf _ _, rfl, fun _ h => (nomatch h)⟩, fun _ h => (nomatch h), ?_⟩,
    starts _ _⟩, params_wf [] [], fun _ h => (nomatch h)⟩
  intro r h
  simp only [host, List.map_cons, List.map_nil, List.mem_singleton] at h
  rw [h]
  rfl

end Sys2Proof.Machine.Tests
end

section
/-! The open parameters never change. First what giving the block a command, issuing one and taking a port outcome leave
alone; then, along the definitions of the host, that no outcome of a step has other parameters. -/

namespace Sys2Proof.Machine

/-! ### What a command and an issued command can do -/

/-- Every command completes, and only ROT and the response are touched (10_state R23, 30_encoding R61). -/
theorem exec_frame (i : Instr) (s : State) : ∃ r w, exec i s = .next ((s.setRot r).setRsp (some w)) := by
  cases i with
  | pack r g b =>
    simp only [exec, execPack]
    split
    · exact ⟨s.rot, _, respond_eq _ s⟩
    · exact ⟨s.rot, _, raise_eq _ s⟩
  | unpack p => exact ⟨s.rot, _, respond_eq _ s⟩
  | boff x y rot =>
    simp only [exec, execBoff]
    split
    · exact ⟨s.rot, _, respond_eq _ s⟩
    · exact ⟨s.rot, _, raise_eq _ s⟩
  | boffr x y =>
    simp only [exec, execBoffr]
    split
    · exact ⟨s.rot, _, respond_eq _ s⟩
    · exact ⟨s.rot, _, raise_eq _ s⟩
  | setrot rot =>
    simp only [exec, execSetrot]
    split
    · exact ⟨_, _, respond_eq _ _⟩
    · exact ⟨s.rot, _, raise_eq _ s⟩
  | getrot => exact ⟨s.rot, _, respond_eq _ s⟩

/-- Every word is answered, a command or not, and only ROT and the response are touched (30_encoding R61, R62). -/
theorem command_frame (w : Cmd) (s : State) : ∃ r v, command w s = .next ((s.setRot r).setRsp (some v)) := by
  cases h : decode w with
  | ok i => rw [command_of_decode h]; exact exec_frame i s
  | error e => exact ⟨s.rot, _, command_of_reject h s⟩

/-- Everything issuing a command can do: the block answers, and the host uses the result, stops with the error, or
reports a reserved status (70_reset R137). -/
theorem issue_cases (i : Instr) (use : Res → State → State) (s : State) :
    ∃ r w t, t = (s.setRot r).setRsp (some w) ∧ command (encode i) s = .next t ∧
      (issue i use s = .next (use (resField w) t) ∨ (∃ e, issue i use s = .next (stop e t)) ∨
        issue i use s = .next (finish .reservedStatus t)) := by
  obtain ⟨r, w, hc⟩ := command_frame (encode i) s
  refine ⟨r, w, _, rfl, hc, ?_⟩
  cases hw : statusOf w with
  | ok => exact .inl (by simp [issue, hc, hw])
  | error e => exact .inr (.inl ⟨e, by simp [issue, hc, hw]⟩)
  | reserved => exact .inr (.inr (by simp [issue, hc, hw]))

/-! ### Updates that leave the parameters alone -/

theorem takeOutcome_params {s t : State} {o : PortOutcome} {i : Interference} (h : takeOutcome s = (o, i, t)) :
    t.params = s.params := by
  obtain ⟨env, draws, ht⟩ := takeOutcome_frame s
  rw [h] at ht
  simp [show t = (s.setEnv env).setDraws draws from ht]

@[simp] theorem afterWrites_params (i : Interference) (s : State) : (afterWrites i s).params = s.params := rfl

@[simp] theorem failPort_params (i : Interference) (s : State) : (failPort i s).params = s.params := rfl

@[simp] theorem beginSequence_params (op : HostOp) (s : State) : (beginSequence op s).params = s.params := rfl

@[simp] theorem keepOffset_params (res : Res) (s : State) : (keepOffset res s).params = s.params := rfl

@[simp] theorem keepPack_params (k : Fin 64) (res : Res) (s : State) : (keepPack k res s).params = s.params := rfl

@[simp] theorem keepColor_params (k : Fin 64) (res : Res) (s : State) : (keepColor k res s).params = s.params := rfl

@[simp] theorem keepDegrees_params (res : Res) (s : State) : (keepDegrees res s).params = s.params := rfl

@[simp] theorem keepNothing_params (res : Res) (s : State) : (keepNothing res s).params = s.params := rfl

@[simp] theorem externalWrite_params (a : BitVec 7) (v : Byte) (s : State) :
    (externalWrite a v s).params = s.params := rfl

/-! ### Outcomes that keep the parameters -/

/-- Where there is a next state, its open parameters are those of `s`. -/
def KeepsParams (s : State) (o : Host.Outcome State Fault Refusal) : Prop := ∀ t, o = .next t → t.params = s.params

@[simp] theorem keepsParams_next {s t : State} : KeepsParams s (.next t) ↔ t.params = s.params :=
  ⟨fun h => h t rfl, fun h _ ht => by cases ht; exact h⟩

@[simp] theorem keepsParams_refused (s : State) (r : Refusal) : KeepsParams s (.refused r) := fun _ h => nomatch h

theorem command_keepsParams (w : Cmd) (s : State) : KeepsParams s (command w s) := by
  obtain ⟨r, v, h⟩ := command_frame w s
  simp [h]

theorem issue_keepsParams (i : Instr) {use : Res → State → State} (huse : ∀ res t, (use res t).params = t.params)
    (s : State) : KeepsParams s (issue i use s) := by
  obtain ⟨r, w, t, rfl, -, h | ⟨e, h⟩ | h⟩ := issue_cases i use s
  · simp [h, huse]
  · simp [h]
  · simp [h]

/-! ### The port operations -/

theorem portWriteRecord_keepsParams (off : Nat) (p : Pixel) (s : State) : KeepsParams s (portWriteRecord off p s) := by
  cases hoff : recordOffsetOk off with
  | true =>
    obtain ⟨i, t, ho, h⟩ | ⟨landed, i, t, ho, h⟩ := portWriteRecord_cases p s hoff
    · simp [h, takeOutcome_params ho]
    · simp [h, takeOutcome_params ho]
  | false => simp [portWriteRecord_refused p s hoff]

theorem portReadAll_keepsParams (s : State) : KeepsParams s (portReadAll s) := by
  obtain ⟨i, t, ho, h⟩ | ⟨landed, i, t, ho, h⟩ := portReadAll_cases s
  · simp [h, takeOutcome_params ho]
  · simp [h, takeOutcome_params ho]

theorem portWriteAll_keepsParams (buf : Vector Byte 128) (s : State) : KeepsParams s (portWriteAll buf s) := by
  obtain ⟨i, t, ho, h⟩ | ⟨landed, i, t, ho, h⟩ := portWriteAll_cases buf s
  · simp [h, takeOutcome_params ho]
  · simp [h, takeOutcome_params ho]

theorem portReadAt_keepsParams (off len : Nat) (s : State) : KeepsParams s (portReadAt off len s) := by
  by_cases hlen : len = 2
  · subst hlen
    cases hoff : recordOffsetOk off with
    | true =>
      obtain ⟨i, t, ho, h⟩ | ⟨landed, i, t, ho, h⟩ := portReadAt_cases s hoff
      · simp [h, takeOutcome_params ho]
      · simp [h, takeOutcome_params ho]
    | false => simp [portReadAt, Config.recordBytes, hoff]
  · simp [portReadAt, Config.recordBytes, hlen]

theorem portWriteAt_keepsParams (off : Nat) (bytes : List Byte) (s : State) :
    KeepsParams s (portWriteAt off bytes s) := by
  unfold portWriteAt
  split
  · exact portWriteRecord_keepsParams off _ s
  · exact keepsParams_refused s _

/-! ### One micro-operation -/

theorem microBoffr_keepsParams (x y : Arg) (s : State) : KeepsParams s (microBoffr x y s) := by
  unfold microBoffr
  split
  · exact issue_keepsParams _ keepOffset_params s
  · simp

theorem microPack_keepsParams (source : ColorSource) (k : Fin 64) (s : State) :
    KeepsParams s (microPack source k s) := by
  unfold microPack
  split
  · exact issue_keepsParams _ (keepPack_params k) s
  · simp

theorem microUnpack_keepsParams (k : Fin 64) (s : State) : KeepsParams s (microUnpack k s) := by
  unfold microUnpack
  split
  · exact issue_keepsParams _ (keepColor_params k) s
  · simp

theorem microSetrot_keepsParams (r : Arg) (s : State) : KeepsParams s (microSetrot r s) := by
  unfold microSetrot
  split
  · exact issue_keepsParams _ keepNothing_params s
  · simp

theorem microCheckRotation_keepsParams (r : Arg) (s : State) : KeepsParams s (microCheckRotation r s) := by
  unfold microCheckRotation
  split
  · simp
  · simp

theorem microStep_keepsParams (m : MicroOp) (s : State) : KeepsParams s (microStep m s) := by
  cases m with
  | checkRotation r => exact microCheckRotation_keepsParams r s
  | boffr x y => exact microBoffr_keepsParams x y s
  | pack source k => exact microPack_keepsParams source k s
  | unpack k => exact microUnpack_keepsParams k s
  | setrot r => exact microSetrot_keepsParams r s
  | getrot => exact issue_keepsParams .getrot keepDegrees_params s
  | writePack k => exact portWriteRecord_keepsParams _ _ s
  | writeRecord off p => exact portWriteRecord_keepsParams off p s
  | readAll => exact portReadAll_keepsParams s
  | writeAll buf => exact portWriteAll_keepsParams buf s
  | readAt off len => exact portReadAt_keepsParams off len s
  | writeAt off bytes => exact portWriteAt_keepsParams off bytes s
  | raise e => simp [microStep]
  | done r => simp [microStep]

/-! ### One step of the machine -/

theorem hostStep_keepsParams (s : State) : KeepsParams s (hostStep s) := by
  cases htodo : s.todo with
  | cons m rest =>
    rw [hostStep_micro htodo]
    exact microStep_keepsParams m (s.setTodo rest)
  | nil =>
    cases hprog : s.program with
    | nil => simp [hostStep, htodo, hprog]
    | cons request rest =>
      cases request with
      | command w =>
        rw [hostStep_command htodo hprog]
        exact command_keepsParams w (s.setProgram rest)
      | sequence op => simp [hostStep_sequence htodo hprog]

theorem agentStep_keepsParams (s : State) : KeepsParams s (agentStep s) := by
  unfold agentStep
  split
  · simp
  · exact hostStep_keepsParams s

/-- Settles O37: each agent's move keeps the parameters, and so does dropping the outputs of the step before. -/
theorem stepKeepsParameters : Obligations.StepKeepsParameters :=
  fun s => agentStep_keepsParams (quiet s)

end Sys2Proof.Machine
end

section
/-! A command word that is decoded carries its row's opcode, and the word of a well-formed command is decoded to that
command. Two statements turn on this: the response is a function of the word, told apart by its opcode, and a sequence
that issues no SETROT gives the block no SETROT. Then what a command does to ROT, what its response depends on, and the
state after reset. -/

namespace Sys2Proof

/-! ### The rows of the opcode map, told apart by their opcode -/

theorem Mnemonic.opcode_injective {m n : Mnemonic} (h : m.opcode = n.opcode) : m = n := by
  revert h; cases m <;> cases n <;> decide

/-- A row's mask keeps the whole of `OPC`, so a word the row accepts has the row's opcode (30_encoding R60). -/
theorem Mnemonic.opcField_of_accepts {m : Mnemonic} {w : Cmd} (h : m.accepts w = true) : opcField w = m.opcode := by
  have hmask : opcField (w &&& m.maskBits) = opcField w &&& opcField m.maskBits := BitVec.extractLsb'_and
  have hopc : opcField m.matchBits = m.opcode := by cases m <;> rfl
  have hall : opcField m.maskBits = BitVec.allOnes 8 := by cases m <;> rfl
  rw [eq_of_beq h, hopc, hall, BitVec.and_allOnes] at hmask
  exact hmask.symm

/-- What is decoded belongs to a row that accepts the word (30_encoding R61). -/
theorem accepts_of_decode {w : Cmd} {i : Instr} (h : decode w = .ok i) : i.mnemonic.accepts w = true := by
  unfold decode at h
  split_ifs at h with hpack hunpack hboff hboffr hsetrot hgetrot
  · cases h; exact hpack
  · cases h; exact hunpack
  · cases h; exact hboff
  · cases h; exact hboffr
  · cases h; exact hsetrot
  · cases h; exact hgetrot

theorem opcField_of_decode {w : Cmd} {i : Instr} (h : decode w = .ok i) : opcField w = i.mnemonic.opcode :=
  Mnemonic.opcField_of_accepts (accepts_of_decode h)

/-! ### Reading back the word of a command -/

/-- The word of a command meets its own row. -/
theorem encode_row (i : Instr) : Laws.RowFields.Statement i := by
  cases i with
  | pack r g b => exact Laws.RowFields.pack r g b
  | unpack p => exact Laws.RowFields.unpack p
  | boff x y rot => exact Laws.RowFields.boff x y rot
  | boffr x y => exact Laws.RowFields.boffr x y
  | setrot rot => exact Laws.RowFields.setrot rot
  | getrot => exact Laws.RowFields.getrot

/-- The word of a command meets its own row and no other. -/
theorem accepts_encode (m : Mnemonic) (i : Instr) : m.accepts (encode i) = decide (m = i.mnemonic) := by
  obtain ⟨hopc, hmatch⟩ := encode_row i
  rw [Bool.eq_iff_iff, decide_eq_true_iff]
  constructor
  · intro h
    exact Mnemonic.opcode_injective ((Mnemonic.opcField_of_accepts h).symm.trans hopc)
  · rintro rfl
    exact beq_iff_eq.2 hmatch

/-- A command whose operands fit their slots is read back from its word (30_encoding R57, R61). -/
theorem decode_encode {i : Instr} (h : i.wellFormed = true) : decode (encode i) = .ok i := by
  simp only [decode, accepts_encode]
  cases i with
  | pack r g b =>
    simp only [Instr.wellFormed, Bool.and_eq_true] at h
    obtain ⟨⟨hr, hg⟩, hb⟩ := h
    simp [Instr.mnemonic, encode, slotA_commandWord, slotB_commandWord, slotC_commandWord, sext16_toSlot, hr, hg, hb]
  | unpack p => simp [Instr.mnemonic, encode, slotC_commandWord]
  | boff x y rot =>
    simp only [Instr.wellFormed, Bool.and_eq_true] at h
    obtain ⟨⟨hx, hy⟩, hrot⟩ := h
    simp [Instr.mnemonic, encode, slotA_commandWord, slotB_commandWord, slotC_commandWord, sext16_toSlot, hx, hy, hrot]
  | boffr x y =>
    simp only [Instr.wellFormed, Bool.and_eq_true] at h
    obtain ⟨hx, hy⟩ := h
    simp [Instr.mnemonic, encode, slotA_commandWord, slotB_commandWord, sext16_toSlot, hx, hy]
  | setrot rot => simp [Instr.mnemonic, encode, slotC_commandWord, sext16_toSlot (show slotFits rot = true from h)]
  | getrot => simp [Instr.mnemonic]

end Sys2Proof

namespace Sys2Proof.Machine

/-- Giving the block the word of a well-formed command executes that command. -/
theorem command_encode {i : Instr} (h : i.wellFormed = true) (s : State) : command (encode i) s = exec i s :=
  command_of_decode (decode_encode h) s

/-! ### What a command does to ROT, and what its response depends on -/

/-- ROT changes only by a SETROT, and to the legal rotation that was its operand (10_state R19, 41_rotator R81). -/
theorem exec_rot {i : Instr} {s t : State} (h : exec i s = .next t) :
    t.rot = s.rot ∨ ∃ v, i = .setrot v ∧ Rotation.ofDegrees v = some t.rot := by
  cases i with
  | pack r g b =>
    simp only [exec, execPack] at h
    split at h <;> cases h <;> exact .inl rfl
  | unpack p => cases h; exact .inl rfl
  | boff x y rot =>
    simp only [exec, execBoff] at h
    split at h <;> cases h <;> exact .inl rfl
  | boffr x y =>
    simp only [exec, execBoffr] at h
    split at h <;> cases h <;> exact .inl rfl
  | setrot v =>
    simp only [exec, execSetrot] at h
    split at h
    case h_1 r hr => cases h; exact .inr ⟨v, rfl, hr⟩
    case h_2 => cases h; exact .inl rfl
  | getrot => cases h; exact .inl rfl

/-- The same for a command word, which may be no command. -/
theorem command_rot {w : Cmd} {s t : State} (h : command w s = .next t) :
    t.rot = s.rot ∨ ∃ v, decode w = .ok (.setrot v) ∧ Rotation.ofDegrees v = some t.rot := by
  cases hd : decode w with
  | ok i =>
    rw [command_of_decode hd] at h
    obtain hrot | ⟨v, rfl, hv⟩ := exec_rot h
    · exact .inl hrot
    · exact .inr ⟨v, rfl, hv⟩
  | error e =>
    rw [command_of_reject hd] at h
    cases h
    exact .inl rfl

theorem command_mem {w : Cmd} {s t : State} (h : command w s = .next t) : t.mem = s.mem := by
  obtain ⟨r, v, hc⟩ := command_frame w s
  rw [hc] at h
  cases h
  rfl

/-- Two states with the same parameters give a command the same response, where they have the same ROT or the command
does not read it (10_state R25). -/
theorem exec_rsp_congr {i : Instr} {s s' t t' : State} (hp : s.params = s'.params)
    (hr : s.rot = s'.rot ∨ (i.mnemonic ≠ .BOFFR ∧ i.mnemonic ≠ .GETROT))
    (h : exec i s = .next t) (h' : exec i s' = .next t') : t.rsp = t'.rsp := by
  cases i with
  | pack r g b =>
    simp only [exec, execPack] at h h'
    split at h
    case isTrue hc => rw [if_pos hc] at h'; cases h; cases h'; rfl
    case isFalse hc => rw [if_neg hc] at h'; cases h; cases h'; rfl
  | unpack p => cases h; cases h'; rfl
  | boff x y rot =>
    simp only [exec, execBoff, ← hp] at h h'
    split at h
    case h_1 r hc => simp only [hc] at h'; cases h; cases h'; rfl
    case h_2 e hc => simp only [hc] at h'; cases h; cases h'; rfl
  | boffr x y =>
    have hrot : s.rot = s'.rot := hr.resolve_right fun hn => hn.1 rfl
    simp only [exec, execBoffr, ← hrot] at h h'
    split at h
    case isTrue hc => rw [if_pos hc] at h'; cases h; cases h'; rfl
    case isFalse hc => rw [if_neg hc] at h'; cases h; cases h'; rfl
  | setrot v =>
    simp only [exec, execSetrot] at h h'
    split at h
    case h_1 r hc => simp only [hc] at h'; cases h; cases h'; rfl
    case h_2 hc => simp only [hc] at h'; cases h; cases h'; rfl
  | getrot =>
    have hrot : s.rot = s'.rot := hr.resolve_right fun hn => hn.2 rfl
    simp only [exec, execGetrot, ← hrot] at h h'
    cases h
    cases h'
    rfl

/-- BOFFR answers as BOFF with the degrees of ROT as its rotation (41_rotator R80). -/
theorem exec_boffr_eq_boff (x y : Int) {rot : Int} {s : State} (h : Rotation.ofDegrees rot = some s.rot) :
    exec (.boffr x y) s = exec (.boff x y rot) s := by
  simp only [exec, execBoffr, execBoff, boffCheck, h]
  cases coordinateOk x && coordinateOk y with
  | true => rfl
  | false => rfl

/-- Settles O21: the frame of a command, and that a command which is no SETROT keeps ROT. -/
theorem commandFrame : Obligations.CommandFrame := by
  intro i s t h
  obtain ⟨r, w, hf⟩ := exec_frame i s
  obtain rfl : (s.setRot r).setRsp (some w) = t := by rw [h] at hf; cases hf; rfl
  refine ⟨fun _ => rfl, rfl, fun hset => ?_⟩
  obtain hrot | ⟨v, hv, -⟩ := exec_rot h
  · exact hrot
  · exact absurd hv (hset v)

/-- Settles O25: a word that is no command always has the same response, and a command reads ROT only where the word
has the opcode of BOFFR or GETROT. -/
theorem responseDependsOnWordAndRot : Obligations.ResponseDependsOnWordAndRot := by
  intro w s s' t t' hp h h' hr
  cases hd : decode w with
  | ok i =>
    rw [command_of_decode hd] at h h'
    have hopc : w.extractLsb' 56 8 = i.mnemonic.opcode := opcField_of_decode hd
    refine exec_rsp_congr hp (hr.imp_right fun hn => ⟨fun hm => hn.1 ?_, fun hm => hn.2 ?_⟩) h h'
    · rw [hopc, hm]; rfl
    · rw [hopc, hm]; rfl
  | error e =>
    rw [command_of_reject hd] at h h'
    cases h
    cases h'
    rfl

/-! ### Reset -/

theorem spec_params_wf : Params.spec.wf := ⟨List.length_finRange, List.nodup_finRange 64⟩

/-- Settles O32: at rotation 0 BOFFR is BOFF of 0 degrees; the rest is read off the reset state. -/
theorem resetState : Obligations.ResetState :=
  ⟨rfl, rfl, fun _ => rfl, rfl, fun x y => exec_boffr_eq_boff x y rfl⟩

/-- Settles O34: nothing is listed in the buffer, the cells are in row-major order, the offset is 0 and no response is
outstanding. -/
theorem resetMeetsInvariant : Obligations.ResetMeetsInvariant where
  mem_wf := wf_reset
  params_wf := spec_params_wf
  off_even := rfl
  rsp_legal := fun _ h => nomatch h

end Sys2Proof.Machine
end

section
/-! What one step can do to ROT and to the bytes of the buffer, along the definitions of the host. Both are followed at
once: `ChangesOnly s R W o` bounds the rotations an outcome can change ROT to and the bytes it can change. -/

namespace Sys2Proof.Machine

/-! ### Who can write what -/

/-- An external writer writes byte `a` in the midst of the port operation that takes the next outcome of the script. -/
def State.Interferes (s : State) (a : Nat) : Prop :=
  ∃ o i events, s.env = .portDuring o i :: events ∧ ∃ w ∈ i.writes, a = w.1.toNat

/-- Byte `a` is one of the two bytes of the record at `off`. -/
def InRecord (off a : Nat) : Prop := a = off ∨ a = off + 1

/-- The bytes a micro-operation of the host writes itself. -/
def MicroOp.Covers (s : State) (a : Nat) : MicroOp → Prop
  | .writePack _ => InRecord s.scratch.off.toNat a
  | .writeRecord off _ => InRecord off a
  | .writeAt off _ => InRecord off a
  | .writeAll _ => a < 128
  | _ => False

/-- The bytes a step of a sequence can change: those it writes, and, in a port operation, those external writers do. -/
def MicroOp.MayWrite (m : MicroOp) (s : State) (a : Nat) : Prop :=
  (m.isPort = true ∧ s.Interferes a) ∨ m.Covers s a

/-- The rotations a step of a sequence can change ROT to: the operand of a SETROT. -/
def MicroOp.MaySetRot (m : MicroOp) (r : Rotation) : Prop := ∃ v, m = .setrot (.int v) ∧ Rotation.ofDegrees v = some r

/-- The rotation a command can change ROT to: the operand of a SETROT. -/
def SetsRot (i : Instr) (r : Rotation) : Prop := ∃ v, i = .setrot v ∧ Rotation.ofDegrees v = some r

/-- Where there is a next state, its ROT is that of `s` or one of `R`, and its bytes are those of `s` outside `W`. -/
def ChangesOnly (s : State) (R : Rotation → Prop) (W : Nat → Prop) (o : Host.Outcome State Fault Refusal) : Prop :=
  ∀ t, o = .next t → (t.rot = s.rot ∨ R t.rot) ∧ ∀ a, Memory.byteAt t.mem a = Memory.byteAt s.mem a ∨ W a

/-- ROT and every byte are as in `s`. -/
abbrev KeepsRotAndBytes (s : State) (o : Host.Outcome State Fault Refusal) : Prop :=
  ChangesOnly s (fun _ => False) (fun _ => False) o

/-- ROT is as in `s`, and every byte outside `W` that no external writer writes in the midst of the operation. -/
abbrev PortWrites (s : State) (W : Nat → Prop) (o : Host.Outcome State Fault Refusal) : Prop :=
  ChangesOnly s (fun _ => False) (fun a => s.Interferes a ∨ W a) o

section
variable {s t : State} {R R' : Rotation → Prop} {W W' : Nat → Prop}

theorem changesOnly_next : ChangesOnly s R W (.next t) ↔
    (t.rot = s.rot ∨ R t.rot) ∧ ∀ a, Memory.byteAt t.mem a = Memory.byteAt s.mem a ∨ W a :=
  ⟨fun h => h t rfl, fun h _ ht => by cases ht; exact h⟩

theorem changesOnly_refused (r : Refusal) : ChangesOnly s R W (.refused r) := fun _ h => nomatch h

/-- A next state with the same ROT and the same buffer is within any bounds. -/
theorem changesOnly_kept (hrot : t.rot = s.rot) (hmem : t.mem = s.mem) : ChangesOnly s R W (.next t) :=
  changesOnly_next.2 ⟨.inl hrot, fun a => .inl (by rw [hmem])⟩

theorem ChangesOnly.mono {o : Host.Outcome State Fault Refusal} (h : ChangesOnly s R W o) (hR : ∀ r, R r → R' r)
    (hW : ∀ a, W a → W' a) : ChangesOnly s R' W' o := by
  intro t ht
  obtain ⟨hrot, hmem⟩ := h t ht
  exact ⟨hrot.imp_right (hR _), fun a => (hmem a).imp_right (hW a)⟩

end

/-! ### Commands -/

theorem command_changesOnly (w : Cmd) (s : State) :
    ChangesOnly s (fun r => ∃ i, decode w = .ok i ∧ SetsRot i r) (fun _ => False) (command w s) := by
  intro t h
  refine ⟨(command_rot h).imp_right ?_, fun a => .inl (by rw [command_mem h])⟩
  rintro ⟨v, hd, hv⟩
  exact ⟨_, hd, v, rfl, hv⟩

/-- Issuing a command changes ROT only by a SETROT, and no byte, where the use of the result changes neither. -/
theorem issue_changesOnly {i : Instr} (hi : i.wellFormed = true) (use : Res → State → State)
    (huse : ∀ res t, (use res t).rot = t.rot ∧ (use res t).mem = t.mem) (s : State) :
    ChangesOnly s (SetsRot i) (fun _ => False) (issue i use s) := by
  obtain ⟨_, _, t, -, hc, h⟩ := issue_cases i use s
  obtain ⟨ht, hbytes⟩ := command_changesOnly (encode i) s t hc
  replace ht : t.rot = s.rot ∨ SetsRot i t.rot := by simpa [decode_encode hi] using ht
  obtain h | ⟨e, h⟩ | h := h
  · rw [h, changesOnly_next, (huse _ t).1, (huse _ t).2]
    exact ⟨ht, hbytes⟩
  · rw [h]; exact changesOnly_next.2 ⟨ht, hbytes⟩
  · rw [h]; exact changesOnly_next.2 ⟨ht, hbytes⟩

/-- A command that is no SETROT, issued, changes neither ROT nor a byte. -/
theorem issue_keepsRotAndBytes {i : Instr} (hi : i.wellFormed = true) (hset : ∀ v, i ≠ .setrot v)
    (use : Res → State → State) (huse : ∀ res t, (use res t).rot = t.rot ∧ (use res t).mem = t.mem) (s : State) :
    KeepsRotAndBytes s (issue i use s) :=
  (issue_changesOnly hi use huse s).mono (fun _ ⟨v, hv, _⟩ => hset v hv) fun _ h => h

/-! ### Writes of the port, among external writes -/

theorem takeOutcome_kept {s t : State} {o : PortOutcome} {i : Interference} (h : takeOutcome s = (o, i, t)) :
    t.rot = s.rot ∧ t.mem = s.mem := by
  obtain ⟨env, draws, ht⟩ := takeOutcome_frame s
  rw [h] at ht
  simp [show t = (s.setEnv env).setDraws draws from ht]

/-- What external writers write during a port operation stands in the script. -/
theorem takeOutcome_interferes {s t : State} {o : PortOutcome} {i : Interference} (h : takeOutcome s = (o, i, t))
    {w : ByteWrite} (hw : w ∈ i.writes) : s.Interferes w.1.toNat := by
  obtain hi | ⟨o', events, he⟩ := takeOutcome_interference s
  · rw [h] at hi
    simp [show i = .none from hi, Interference.none] at hw
  · rw [h] at he
    exact ⟨o', i, events, he, w, hw, rfl⟩

theorem Memory.byteAt_writeFrame_outside (m : Memory) (buf : Vector Byte 128) {a : Nat} (h : ¬ a < 128) :
    Memory.byteAt (writeFrame m buf) a = Memory.byteAt m a := by
  rw [writeFrame, Memory.byteAt_setBytes, dif_neg (by simpa using h)]

theorem Memory.byteAt_writeLanded_outside (m : Memory) (buf : Vector Byte 128) (landed : BitVec 128) {a : Nat}
    (h : ¬ a < 128) : Memory.byteAt (writeLanded m buf landed) a = Memory.byteAt m a := by
  unfold writeLanded
  induction List.finRange 128 generalizing m with
  | nil => rfl
  | cons b l ih =>
    rw [List.foldl_cons, ih]
    split
    · rw [Memory.byteAt_setByte, if_neg (by omega)]
    · rfl

section
variable {i : Interference} {a : Nat} (hno : ∀ w ∈ i.writes, w.1.toNat ≠ a)
include hno

theorem Interference.byteAt_writeRecord_outside (m : Memory) {off : Nat} (p : Pixel) (h : ¬ InRecord off a) :
    Memory.byteAt (i.writeRecord m off p) a = Memory.byteAt m a := by
  rw [Interference.byteAt_writeRecord, if_neg (show ¬(a = off ∨ a = off + 1) from h),
    Memory.byteAt_externalWrites_other m hno]

theorem Interference.byteAt_writeMany_outside {write : Memory → Memory} (m : Memory)
    (h : ∀ m', Memory.byteAt (write m') a = Memory.byteAt m' a) :
    Memory.byteAt (i.writeMany write m) a = Memory.byteAt m a := by
  rw [Interference.byteAt_writeMany, Memory.byteAt_externalWrites_other _ fun w hw => hno w (List.mem_of_mem_drop hw),
    h, Memory.byteAt_externalWrites_other m hno]

end

/-! ### The port operations -/

/-- A port operation is over: ROT is as it was, and each byte that neither the operation covers nor an external writer
writes in its midst. -/
theorem port_writes {s t u : State} {o : PortOutcome} {i : Interference} {W : Nat → Prop}
    (ho : takeOutcome s = (o, i, t)) (hrot : u.rot = t.rot)
    (hmem : ∀ a, (∀ w ∈ i.writes, w.1.toNat ≠ a) → ¬ W a → Memory.byteAt u.mem a = Memory.byteAt t.mem a) :
    PortWrites s W (.next u) := by
  obtain ⟨ht, hm⟩ := takeOutcome_kept ho
  refine changesOnly_next.2 ⟨.inl (hrot.trans ht), fun a => ?_⟩
  by_cases h : s.Interferes a ∨ W a
  · exact .inr h
  · obtain ⟨hi, hW⟩ := not_or.1 h
    refine .inl ?_
    rw [← hm]
    exact hmem a (fun w hw e => hi (e ▸ takeOutcome_interferes ho hw)) hW

/-- The same where the operation itself writes nothing. -/
theorem port_writes_nothing {s t u : State} {o : PortOutcome} {i : Interference} {W : Nat → Prop}
    (ho : takeOutcome s = (o, i, t)) (hrot : u.rot = t.rot) (hmem : u.mem = Memory.externalWrites t.mem i.writes) :
    PortWrites s W (.next u) :=
  port_writes ho hrot fun a hno _ => by rw [hmem, Memory.byteAt_externalWrites_other t.mem hno]

theorem portWriteRecord_writes (off : Nat) (p : Pixel) (s : State) :
    PortWrites s (InRecord off) (portWriteRecord off p s) := by
  cases hoff : recordOffsetOk off with
  | true =>
    obtain ⟨i, t, ho, h⟩ | ⟨landed, i, t, ho, h⟩ := portWriteRecord_cases p s hoff
    · rw [h]
      exact port_writes ho rfl fun a hno hW => Interference.byteAt_writeRecord_outside hno t.mem p hW
    · rw [h]
      exact port_writes_nothing ho rfl rfl
  | false =>
    rw [portWriteRecord_refused p s hoff]
    exact changesOnly_refused _

theorem portReadAll_writes (s : State) :
    PortWrites s (fun _ => False) (portReadAll s) := by
  obtain ⟨i, t, ho, h⟩ | ⟨landed, i, t, ho, h⟩ := portReadAll_cases s
  · rw [h]
    exact port_writes_nothing ho rfl rfl
  · rw [h]
    exact port_writes_nothing ho rfl rfl

theorem portWriteAll_writes (buf : Vector Byte 128) (s : State) :
    PortWrites s (· < 128) (portWriteAll buf s) := by
  obtain ⟨i, t, ho, h⟩ | ⟨landed, i, t, ho, h⟩ := portWriteAll_cases buf s
  · rw [h]
    exact port_writes ho rfl fun a hno hW =>
      Interference.byteAt_writeMany_outside hno t.mem fun m => Memory.byteAt_writeFrame_outside m buf hW
  · rw [h]
    exact port_writes ho rfl fun a hno hW =>
      Interference.byteAt_writeMany_outside hno t.mem fun m => Memory.byteAt_writeLanded_outside m buf landed hW

theorem portReadAt_writes (off len : Nat) (s : State) :
    PortWrites s (fun _ => False) (portReadAt off len s) := by
  by_cases hlen : len = 2
  · subst hlen
    cases hoff : recordOffsetOk off with
    | true =>
      obtain ⟨i, t, ho, h⟩ | ⟨landed, i, t, ho, h⟩ := portReadAt_cases s hoff
      · rw [h]
        exact port_writes_nothing ho rfl rfl
      · rw [h]
        exact port_writes_nothing ho rfl rfl
    | false =>
      simp only [portReadAt, Config.recordBytes, hoff]
      exact changesOnly_refused _
  · simp only [portReadAt, Config.recordBytes, hlen]
    exact changesOnly_refused _

theorem portWriteAt_writes (off : Nat) (bytes : List Byte) (s : State) :
    PortWrites s (InRecord off) (portWriteAt off bytes s) := by
  unfold portWriteAt
  split
  · exact portWriteRecord_writes off _ s
  · exact changesOnly_refused _

/-! ### One micro-operation -/

/-- Only an integer that fits its slot is presented to the block (60_exceptions R108, R109). -/
theorem Arg.presentable_eq_some {x : Arg} {v : Int} (h : x.presentable = some v) : x = .int v ∧ slotFits v = true := by
  cases x with
  | int u =>
    simp only [Arg.presentable] at h
    split at h
    case isTrue hu => cases h; exact ⟨rfl, hu⟩
    case isFalse => cases h
  | notInteger => cases h

theorem RawColor.pack_wellFormed {c : RawColor} {r g b : Int} (h : RawColor.presentable c = some (r, g, b)) :
    (Instr.pack r g b).wellFormed = true := by
  unfold RawColor.presentable at h
  split at h
  case h_1 =>
    split at h
    case h_1 hr hg hb =>
      cases h
      simp [Instr.wellFormed, (Arg.presentable_eq_some hr).2, (Arg.presentable_eq_some hg).2,
        (Arg.presentable_eq_some hb).2]
    case h_2 => cases h
  case h_2 => cases h

theorem microBoffr_keepsRotAndBytes (x y : Arg) (s : State) :
    KeepsRotAndBytes s (microBoffr x y s) := by
  unfold microBoffr
  split
  case h_1 u v hx hy =>
    have hwf : (Instr.boffr u v).wellFormed = true := by
      simp [Instr.wellFormed, (Arg.presentable_eq_some hx).2, (Arg.presentable_eq_some hy).2]
    exact issue_keepsRotAndBytes hwf nofun keepOffset (fun _ _ => ⟨rfl, rfl⟩) s
  case h_2 => exact changesOnly_kept rfl rfl

theorem microPack_keepsRotAndBytes (source : ColorSource) (k : Fin 64) (s : State) :
    KeepsRotAndBytes s (microPack source k s) := by
  unfold microPack
  split
  case h_1 hc =>
    exact issue_keepsRotAndBytes (RawColor.pack_wellFormed hc) nofun (keepPack k) (fun _ _ => ⟨rfl, rfl⟩) s
  case h_2 => exact changesOnly_kept rfl rfl

theorem microUnpack_keepsRotAndBytes (k : Fin 64) (s : State) :
    KeepsRotAndBytes s (microUnpack k s) := by
  unfold microUnpack
  split
  case h_1 p _ =>
    exact issue_keepsRotAndBytes (i := .unpack p) rfl nofun (keepColor k) (fun _ _ => ⟨rfl, rfl⟩) s
  case h_2 => exact changesOnly_refused _

theorem microSetrot_changesOnly (r : Arg) (s : State) :
    ChangesOnly s (MicroOp.setrot r).MaySetRot (fun _ => False) (microSetrot r s) := by
  unfold microSetrot
  split
  case h_1 v hr =>
    obtain ⟨rfl, hv⟩ := Arg.presentable_eq_some hr
    refine (issue_changesOnly (i := .setrot v) hv keepNothing (fun _ _ => ⟨rfl, rfl⟩) s).mono ?_ fun _ h => h
    rintro r ⟨v', hv', hr'⟩
    cases hv'
    exact ⟨v, rfl, hr'⟩
  case h_2 => exact changesOnly_kept rfl rfl

theorem microCheckRotation_keepsRotAndBytes (r : Arg) (s : State) :
    KeepsRotAndBytes s (microCheckRotation r s) := by
  unfold microCheckRotation
  split
  · exact changesOnly_kept rfl rfl
  · exact changesOnly_kept rfl rfl

section
variable {m : MicroOp} {s : State} {o : Host.Outcome State Fault Refusal}

theorem KeepsRotAndBytes.changesOnly (h : KeepsRotAndBytes s o) :
    ChangesOnly s m.MaySetRot (m.MayWrite s) o :=
  h.mono (fun _ hf => hf.elim) fun _ hf => hf.elim

theorem PortWrites.changesOnly (hm : m.isPort = true)
    (h : PortWrites s (m.Covers s) o) :
    ChangesOnly s m.MaySetRot (m.MayWrite s) o :=
  h.mono (fun _ hf => hf.elim) fun _ hw => hw.imp_left fun hi => ⟨hm, hi⟩

end

theorem microStep_changesOnly (m : MicroOp) (s : State) : ChangesOnly s m.MaySetRot (m.MayWrite s) (microStep m s) := by
  cases m with
  | checkRotation r => exact (microCheckRotation_keepsRotAndBytes r s).changesOnly
  | boffr x y => exact (microBoffr_keepsRotAndBytes x y s).changesOnly
  | pack source k => exact (microPack_keepsRotAndBytes source k s).changesOnly
  | unpack k => exact (microUnpack_keepsRotAndBytes k s).changesOnly
  | setrot r => exact (microSetrot_changesOnly r s).mono (fun _ h => h) fun _ hf => hf.elim
  | getrot =>
    exact (issue_keepsRotAndBytes (i := .getrot) rfl nofun keepDegrees (fun _ _ => ⟨rfl, rfl⟩) s).changesOnly
  | writePack k => exact (portWriteRecord_writes _ _ s).changesOnly rfl
  | writeRecord off p => exact (portWriteRecord_writes off p s).changesOnly rfl
  | readAll => exact (portReadAll_writes s).changesOnly rfl
  | writeAll buf => exact (portWriteAll_writes buf s).changesOnly rfl
  | readAt off len => exact (portReadAt_writes off len s).changesOnly rfl
  | writeAt off bytes => exact (portWriteAt_writes off bytes s).changesOnly rfl
  | raise e => exact changesOnly_kept rfl rfl
  | done r => exact changesOnly_kept rfl rfl

/-! ### One step of the machine -/

/-- A SETROT is what the host does next, at the command port or in the sequence in progress, and `r` is its operand. -/
def State.MaySetRot (s : State) (r : Rotation) : Prop :=
  (s.todo = [] ∧ ∃ w rest, s.program = .command w :: rest ∧ ∃ i, decode w = .ok i ∧ SetsRot i r) ∨
    ∃ m rest, s.todo = m :: rest ∧ m.MaySetRot r

/-- The step of the sequence in progress can change byte `a`. -/
def State.MayWrite (s : State) (a : Nat) : Prop := ∃ m rest, s.todo = m :: rest ∧ m.MayWrite s a

theorem hostStep_changesOnly (s : State) : ChangesOnly s s.MaySetRot s.MayWrite (hostStep s) := by
  cases htodo : s.todo with
  | cons m rest =>
    rw [hostStep_micro htodo]
    exact (microStep_changesOnly m (s.setTodo rest)).mono (fun _ hr => .inr ⟨m, rest, htodo, hr⟩)
      fun _ hw => ⟨m, rest, htodo, hw⟩
  | nil =>
    cases hprog : s.program with
    | nil =>
      rw [show hostStep s = .next s by simp [hostStep, htodo, hprog]]
      exact changesOnly_kept rfl rfl
    | cons request rest =>
      cases request with
      | command w =>
        rw [hostStep_command htodo hprog]
        exact (command_changesOnly w (s.setProgram rest)).mono (fun _ hr => .inl ⟨htodo, w, rest, hprog, hr⟩)
          fun _ hf => hf.elim
      | sequence op =>
        rw [hostStep_sequence htodo hprog]
        exact changesOnly_kept rfl rfl

/-- A step is an external write that is due, or the host's. -/
theorem step_cases (s : State) :
    (∃ a v rest, s.env = .external a v :: rest ∧ step s = .next (externalWrite a v ((quiet s).setEnv rest))) ∨
      step s = hostStep (quiet s) := by
  simp only [step, agentStep]
  split
  case h_1 a v rest he => exact .inl ⟨a, v, rest, he, rfl⟩
  case h_2 => exact .inr rfl

theorem step_changesOnly (s : State) :
    ChangesOnly s s.MaySetRot (fun a => (∃ b v rest, s.env = .external b v :: rest ∧ a = b.toNat) ∨ s.MayWrite a)
      (step s) := by
  obtain ⟨b, v, rest, he, h⟩ | h := step_cases s
  · rw [h]
    refine changesOnly_next.2 ⟨.inl rfl, fun a => ?_⟩
    by_cases ha : a = b.toNat
    · exact .inr (.inl ⟨b, v, rest, he, ha⟩)
    · exact .inl ((Memory.byteAt_setByte s.mem b.toNat v a).trans (if_neg ha))
  · rw [h]
    exact (hostStep_changesOnly (quiet s)).mono (fun _ hr => hr) fun _ hw => .inr hw

/-- Settles O26: the bound on ROT of `step_changesOnly`, for a command word and for a step of a sequence. -/
theorem onlySetrotWritesRot : Obligations.OnlySetrotWritesRot := by
  refine ⟨rfl, fun s t h hne => ?_⟩
  have hset : s.MaySetRot t.rot := (step_changesOnly s t h).1.resolve_left hne
  obtain ⟨htodo, w, rest, hprog, _, hd, v, rfl, hv⟩ | ⟨_, rest, htodo, v, rfl, hv⟩ := hset
  · exact ⟨v, hv, .inl ⟨htodo, w, rest, hprog, hd⟩⟩
  · exact ⟨v, hv, .inr ⟨rest, htodo⟩⟩

/-- Settles O27: the bound on the bytes of `step_changesOnly`, with one case for each micro-operation that writes. -/
theorem onlyWritesChangeMemory : Obligations.OnlyWritesChangeMemory := by
  intro s t a h hne
  obtain hext | ⟨m, rest, htodo, ⟨hport, o, i, events, he, hw⟩ | hcov⟩ :=
    ((step_changesOnly s t h).2 a).resolve_left hne
  · exact .inl hext
  · exact .inr (.inl ⟨o, i, events, m, rest, he, htodo, hport, hw⟩)
  · refine .inr (.inr ?_)
    cases m with
    | writePack k => exact .inl ⟨k, rest, htodo, hcov⟩
    | writeRecord off p => exact .inr (.inl ⟨off, p, rest, htodo, hcov⟩)
    | writeAt off bytes => exact .inr (.inr (.inl ⟨off, bytes, rest, htodo, hcov⟩))
    | writeAll buf => exact .inr (.inr (.inr ⟨buf, rest, htodo, hcov⟩))
    | checkRotation | boffr | pack | unpack | setrot | getrot | readAll | readAt | raise | done => exact hcov.elim

end Sys2Proof.Machine
end

section
/-! A safe system never stops, along the definitions of the host: every step of a sequence goes on to a state that
meets the invariant, or is refused, and then it is one the spec does not admit. Admitted requests expand into admitted
steps only. -/

namespace Sys2Proof.Machine

/-! ### Every response is legal -/

theorem legalResponse_okWord (res : Res) : legalResponse (okWord res) = true := by
  simp [legalResponse, okWord, zeroField_responseWord, stField_responseWord]

theorem respond_rsp_legal {res : Res} {s t : State} (h : respond res s = .next t) :
    ∃ w, t.rsp = some w ∧ legalResponse w = true := by
  cases h
  exact ⟨_, rfl, legalResponse_okWord res⟩

theorem raise_rsp_legal {e : ErrorKind} {s t : State} (h : raise e s = .next t)
    (he : legalResponse (errorWord e) = true) : ∃ w, t.rsp = some w ∧ legalResponse w = true := by
  cases h
  exact ⟨_, rfl, he⟩

/-- BOFF has no error but its two. -/
theorem boffCheck_error {first : Bool} {x y rot : Int} {e : ErrorKind} (h : boffCheck first x y rot = .error e) :
    e = .invalidCoordinate ∨ e = .invalidRotation := by
  unfold boffCheck at h
  split at h
  case h_1 => cases h
  case h_2 => cases h; exact .inr rfl
  case h_3 => cases h; exact .inl rfl
  case h_4 => cases h; cases first <;> simp

theorem exec_rsp_legal {i : Instr} {s t : State} (h : exec i s = .next t) :
    ∃ w, t.rsp = some w ∧ legalResponse w = true := by
  cases i with
  | pack r g b =>
    simp only [exec, execPack] at h
    split at h
    · exact respond_rsp_legal h
    · exact raise_rsp_legal h (by decide)
  | unpack p => exact respond_rsp_legal h
  | boff x y rot =>
    simp only [exec, execBoff] at h
    split at h
    · exact respond_rsp_legal h
    case h_2 e he =>
      obtain rfl | rfl := boffCheck_error he
      · exact raise_rsp_legal h (by decide)
      · exact raise_rsp_legal h (by decide)
  | boffr x y =>
    simp only [exec, execBoffr] at h
    split at h
    · exact respond_rsp_legal h
    · exact raise_rsp_legal h (by decide)
  | setrot rot =>
    simp only [exec, execSetrot] at h
    split at h
    · exact respond_rsp_legal h
    · exact raise_rsp_legal h (by decide)
  | getrot => exact respond_rsp_legal h

/-- Every word is answered with a legal response (30_encoding R58, R59). -/
theorem command_rsp_legal {w : Cmd} {s t : State} (h : command w s = .next t) :
    ∃ v, t.rsp = some v ∧ legalResponse v = true := by
  cases hd : decode w with
  | ok i => rw [command_of_decode hd] at h; exact exec_rsp_legal h
  | error e =>
    rw [command_of_reject hd] at h
    cases h
    exact ⟨_, rfl, by decide⟩

/-! ### What a step of a sequence leaves behind -/

/-- `t` meets the invariant and has before it what `s` has, or has ended the sequence in progress. -/
structure Follows (s t : State) : Prop where
  inv : t.Inv
  todo : t.todo = s.todo ∨ t.todo = []
  program : t.program = s.program

section
variable {s t : State}

theorem Follows.refl (h : s.Inv) : Follows s s := ⟨h, .inl rfl, rfl⟩

theorem Follows.setMem (h : Follows s t) {m : Memory} (hm : Memory.wf m) : Follows s (t.setMem m) :=
  ⟨{ h.inv with mem_wf := hm }, h.todo, h.program⟩

theorem Follows.setScratch (h : Follows s t) {v : Scratch} (hoff : v.off.toNat % 2 = 0) : Follows s (t.setScratch v) :=
  ⟨{ h.inv with off_even := hoff }, h.todo, h.program⟩

theorem Follows.finish (h : Follows s t) (r : Report) : Follows s (finish r t) :=
  ⟨{ h.inv with off_even := rfl }, .inr rfl, h.program⟩

theorem Follows.stop (h : Follows s t) (e : ErrorKind) : Follows s (stop e t) := h.finish (.error e)

theorem Follows.afterWrites (h : Follows s t) (i : Interference) : Follows s (afterWrites i t) :=
  h.setMem (Memory.wf_externalWrites i.writes h.inv.mem_wf)

theorem Follows.failPort (h : Follows s t) (i : Interference) : Follows s (failPort i t) := (h.afterWrites i).stop _

theorem takeOutcome_follows {o : PortOutcome} {i : Interference} (hs : s.Inv) (h : takeOutcome s = (o, i, t)) :
    Follows s t := by
  obtain ⟨env, draws, ht⟩ := takeOutcome_frame s
  rw [h] at ht
  obtain rfl : t = (s.setEnv env).setDraws draws := ht
  exact ⟨{ hs with }, .inl rfl, rfl⟩

theorem command_follows {w : Cmd} (hs : s.Inv) (h : command w s = .next t) : Follows s t := by
  obtain ⟨v, hv, hlegal⟩ := command_rsp_legal h
  obtain ⟨r, u, hc⟩ := command_frame w s
  obtain rfl : (s.setRot r).setRsp (some u) = t := by rw [h] at hc; cases hc; rfl
  exact ⟨{ hs with rsp_legal := fun x hx => by rw [hv] at hx; cases hx; exact hlegal }, .inl rfl, rfl⟩

end

/-! ### A step of a sequence goes on, or is refused -/

/-- No fault; a refusal only where the step is not admitted; and a next state that follows `s`. -/
def Proceeds (s : State) (admitted : Bool) : Host.Outcome State Fault Refusal → Prop
  | .next t => Follows s t
  | .fault _ => False
  | .refused _ => admitted = false

/-- An admitted step goes on. -/
theorem Proceeds.next {s : State} {o : Host.Outcome State Fault Refusal} (h : Proceeds s true o) :
    ∃ t, o = .next t ∧ Follows s t := by
  cases o with
  | next t => exact ⟨t, rfl, h⟩
  | fault f => exact h.elim
  | refused r => exact nomatch h

theorem recordOffsetOk_iff {off : Nat} : recordOffsetOk off = true ↔ off % 2 = 0 ∧ off ≤ 126 := by
  simp [recordOffsetOk]

section
variable {s : State} (hs : s.Inv)
include hs

/-- Issuing a command goes on, where the use of the result does. -/
theorem issue_proceeds (i : Instr) {use : Res → State → State}
    (huse : ∀ res t, Follows s t → Follows s (use res t)) :
    Proceeds s true (issue i use s) := by
  obtain ⟨_, _, t, -, hc, h⟩ := issue_cases i use s
  have ht := command_follows hs hc
  obtain h | ⟨e, h⟩ | h := h
  · rw [h]; exact huse _ t ht
  · rw [h]; exact ht.stop e
  · rw [h]; exact ht.finish _

theorem portWriteRecord_proceeds (off : Nat) (p : Pixel) :
    Proceeds s (recordOffsetOk off) (portWriteRecord off p s) := by
  cases hoff : recordOffsetOk off with
  | true =>
    obtain ⟨i, t, ho, h⟩ | ⟨landed, i, t, ho, h⟩ := portWriteRecord_cases p s hoff
    · have ht := takeOutcome_follows hs ho
      have hend : off + 2 ≤ Config.frameBytes := by
        obtain ⟨-, hle⟩ := recordOffsetOk_iff.1 hoff
        exact Nat.add_le_add_right hle 2
      rw [h]
      exact ht.setMem (i.wf_writeRecord p ht.inv.mem_wf hend)
    · rw [h]
      exact (takeOutcome_follows hs ho).failPort i
  | false =>
    rw [portWriteRecord_refused p s hoff]
    rfl

theorem portReadAll_proceeds : Proceeds s true (portReadAll s) := by
  obtain ⟨i, t, ho, h⟩ | ⟨landed, i, t, ho, h⟩ := portReadAll_cases s
  · have ht := takeOutcome_follows hs ho
    rw [h]
    exact (ht.afterWrites i).setScratch ht.inv.off_even
  · rw [h]
    exact (takeOutcome_follows hs ho).failPort i

theorem portWriteAll_proceeds (buf : Vector Byte 128) : Proceeds s true (portWriteAll buf s) := by
  obtain ⟨i, t, ho, h⟩ | ⟨landed, i, t, ho, h⟩ := portWriteAll_cases buf s
  · have ht := takeOutcome_follows hs ho
    rw [h]
    exact ht.setMem (i.wf_writeMany (fun _ => wf_writeFrame buf) ht.inv.mem_wf)
  · have ht := takeOutcome_follows hs ho
    rw [h]
    exact (ht.setMem (i.wf_writeMany (fun _ => wf_writeLanded buf landed) ht.inv.mem_wf)).stop _

theorem portReadAt_proceeds (off len : Nat) :
    Proceeds s (recordOffsetOk off && decide (len = 2)) (portReadAt off len s) := by
  by_cases hlen : len = 2
  · subst hlen
    cases hoff : recordOffsetOk off with
    | true =>
      obtain ⟨i, t, ho, h⟩ | ⟨landed, i, t, ho, h⟩ := portReadAt_cases s hoff
      · have ht := takeOutcome_follows hs ho
        rw [h]
        exact (ht.afterWrites i).setScratch ht.inv.off_even
      · rw [h]
        exact (takeOutcome_follows hs ho).failPort i
    | false => simp [portReadAt, Config.recordBytes, hoff, Proceeds]
  · simp [portReadAt, Config.recordBytes, hlen, Proceeds]

theorem portWriteAt_proceeds (off : Nat) (bytes : List Byte) :
    Proceeds s (recordOffsetOk off && decide (bytes.length = 2)) (portWriteAt off bytes s) := by
  by_cases hlen : bytes.length = 2
  · simp only [portWriteAt, Config.recordBytes, hlen, if_true, decide_true, Bool.and_true]
    exact portWriteRecord_proceeds hs off _
  · simp [portWriteAt, Config.recordBytes, hlen, Proceeds]

/-- BOFFR answers with an even offset, which is what the sequence then holds (41_rotator R78). -/
theorem microBoffr_proceeds (x y : Arg) : Proceeds s true (microBoffr x y s) := by
  unfold microBoffr
  split
  case h_1 u v hx hy =>
    have hwf : (Instr.boffr u v).wellFormed = true := by
      simp [Instr.wellFormed, (Arg.presentable_eq_some hx).2, (Arg.presentable_eq_some hy).2]
    cases hc : coordinateOk u && coordinateOk v with
    | true =>
      have hcmd : command (encode (.boffr u v)) s =
          respond (offsetRes (byteOffset u.toNat v.toNat s.rot)) s := by
        rw [command_encode hwf, exec, execBoffr, if_pos hc]
      rw [issue_ok hcmd rfl]
      refine (command_follows hs hcmd).setScratch ?_
      simp only [resOffset, offsetRes, byteOffset, BitVec.extractLsb'_toNat, BitVec.toNat_ofNat, Nat.shiftRight_zero]
      omega
    | false =>
      have hcmd : command (encode (.boffr u v)) s = raise .invalidCoordinate s := by
        rw [command_encode hwf, exec, execBoffr, if_neg (by simp [hc])]
      rw [issue_error hcmd rfl]
      exact (command_follows hs hcmd).stop _
  case h_2 => exact (Follows.refl hs).stop _

theorem microPack_proceeds (source : ColorSource) (k : Fin 64) : Proceeds s true (microPack source k s) := by
  unfold microPack
  split
  · exact issue_proceeds hs _ fun _ _ ht => ht.setScratch ht.inv.off_even
  · exact (Follows.refl hs).stop _

/-- The offset is even, so the copy has a record there. -/
theorem microUnpack_proceeds (k : Fin 64) : Proceeds s true (microUnpack k s) := by
  simp only [microUnpack, bufRecord, dif_pos hs.off_even]
  exact issue_proceeds hs _ fun _ _ ht => ht.setScratch ht.inv.off_even

theorem microSetrot_proceeds (r : Arg) : Proceeds s true (microSetrot r s) := by
  unfold microSetrot
  split
  · exact issue_proceeds hs _ fun _ _ ht => ht
  · exact (Follows.refl hs).stop _

theorem microCheckRotation_proceeds (r : Arg) : Proceeds s true (microCheckRotation r s) := by
  unfold microCheckRotation
  split
  · exact Follows.refl hs
  · exact (Follows.refl hs).stop _

theorem recordOffsetOk_scratch_off : recordOffsetOk s.scratch.off.toNat = true := by
  have hlt := s.scratch.off.isLt
  have heven := hs.off_even
  exact recordOffsetOk_iff.2 ⟨heven, by omega⟩

theorem microStep_proceeds (m : MicroOp) : Proceeds s m.admitted (microStep m s) := by
  cases m with
  | checkRotation r => exact microCheckRotation_proceeds hs r
  | boffr x y => exact microBoffr_proceeds hs x y
  | pack source k => exact microPack_proceeds hs source k
  | unpack k => exact microUnpack_proceeds hs k
  | setrot r => exact microSetrot_proceeds hs r
  | getrot => exact issue_proceeds hs .getrot fun _ _ ht => ht.setScratch ht.inv.off_even
  | writePack k =>
    have h := portWriteRecord_proceeds hs s.scratch.off.toNat s.scratch.packs[k]
    rwa [recordOffsetOk_scratch_off hs] at h
  | writeRecord off p => exact portWriteRecord_proceeds hs off p
  | readAll => exact portReadAll_proceeds hs
  | writeAll buf => exact portWriteAll_proceeds hs buf
  | readAt off len => exact portReadAt_proceeds hs off len
  | writeAt off bytes => exact portWriteAt_proceeds hs off bytes
  | raise e => exact (Follows.refl hs).stop e
  | done r => exact (Follows.refl hs).finish _

end

/-! ### Admitted requests expand into admitted steps -/

/-- Every step of the list is one the spec admits. -/
def AllAdmitted (ops : List MicroOp) : Prop := ∀ m ∈ ops, m.admitted = true

section
variable {m : MicroOp} {ops ops' : List MicroOp}

theorem AllAdmitted.nil : AllAdmitted [] := nofun

theorem AllAdmitted.cons (hm : m.admitted = true) (h : AllAdmitted ops) : AllAdmitted (m :: ops) :=
  List.forall_mem_cons.2 ⟨hm, h⟩

theorem AllAdmitted.append (h : AllAdmitted ops) (h' : AllAdmitted ops') : AllAdmitted (ops ++ ops') :=
  List.forall_mem_append.2 ⟨h, h'⟩

theorem AllAdmitted.single (hm : m.admitted = true) : AllAdmitted [m] := .cons hm .nil

theorem AllAdmitted.map {α : Type} {f : α → MicroOp} (h : ∀ x, (f x).admitted = true) (l : List α) :
    AllAdmitted (l.map f) :=
  List.forall_mem_map.2 fun x _ => h x

theorem AllAdmitted.flatMap {α : Type} {f : α → List MicroOp} (h : ∀ x, AllAdmitted (f x)) (l : List α) :
    AllAdmitted (l.flatMap f) :=
  List.forall_mem_flatMap.2 fun x _ => h x

end

theorem allAdmitted_readFrameOps : AllAdmitted readFrameOps :=
  .cons rfl (.flatMap (fun _ => .cons rfl (.single rfl)) _)

theorem allAdmitted_writeFrameOps (order : List (Fin 64)) : AllAdmitted (writeFrameOps order) :=
  .flatMap (fun _ => .cons rfl (.single rfl)) _

theorem allAdmitted_rewriteFrameOps (order : List (Fin 64)) (src : Fin 64 → Fin 64) :
    AllAdmitted (rewriteFrameOps order src) :=
  .append (.map (fun _ => rfl) _) (allAdmitted_writeFrameOps order)

theorem allAdmitted_setGridOps (p : Params) (rows : List (List RawColor)) : AllAdmitted (setGridOps p rows) := by
  unfold setGridOps
  split
  · exact .append (.append (.map (fun _ => rfl) _) (allAdmitted_writeFrameOps _)) (.single rfl)
  · refine .append ?_ (.single rfl)
    split
    · exact .nil
    · exact .map (fun _ => rfl) _

theorem allAdmitted_setGeneratorOps (p : Params) (cells : Vector RawColor 64) :
    AllAdmitted (setGeneratorOps p cells) := by
  unfold setGeneratorOps
  split
  · exact .append (.append (.map (fun _ => rfl) _) (allAdmitted_writeFrameOps _)) (.single rfl)
  · exact .append (.flatMap (fun _ => .cons rfl (.cons rfl (.single rfl))) _) (.single rfl)

theorem allAdmitted_setPixelOps (p : Params) (x y : Arg) (color : RawColor) :
    AllAdmitted (setPixelOps p x y color) := by
  unfold setPixelOps
  split
  · exact .cons rfl (.cons rfl (.cons rfl (.single rfl)))
  · exact .cons rfl (.cons rfl (.cons rfl (.single rfl)))

theorem allAdmitted_expand (p : Params) {op : HostOp} (h : (Request.sequence op).admitted = true) :
    AllAdmitted (expand p op) := by
  cases op with
  | writeRecord off px => exact .cons h (.single rfl)
  | readAll => exact .cons rfl (.single rfl)
  | writeAll buf => exact .cons rfl (.single rfl)
  | readAt off len => exact .cons h (.single rfl)
  | writeAt off bytes => exact .cons h (.single rfl)
  | getPixel x y => exact .cons rfl (.cons rfl (.cons rfl (.single rfl)))
  | setPixel x y color => exact allAdmitted_setPixelOps p x y color
  | getPixels => exact .append allAdmitted_readFrameOps (.single rfl)
  | setPixels source =>
    cases source with
    | grid rows => exact allAdmitted_setGridOps p rows
    | generator cells => exact allAdmitted_setGeneratorOps p cells
  | clear => exact allAdmitted_setGridOps p _
  | getRotation => exact .cons rfl (.single rfl)
  | setRotation r =>
    exact .append (.append (.cons rfl allAdmitted_readFrameOps) (.cons rfl (allAdmitted_rewriteFrameOps _ _)))
      (.single rfl)
  | flipH | flipV =>
    exact .append (.append allAdmitted_readFrameOps (allAdmitted_rewriteFrameOps _ _)) (.single rfl)

/-! ### One step of the machine -/

section
variable {s t : State}

/-- What follows a safe system is safe. -/
theorem Follows.safe (h : Follows s t) (hs : s.Safe) : t.Safe where
  inv := h.inv
  todo_admitted := by
    obtain htodo | htodo := h.todo
    · rw [htodo]; exact hs.todo_admitted
    · rw [htodo]; exact nofun
  program_admitted := by rw [h.program]; exact hs.program_admitted

theorem quiet_safe (hs : s.Safe) : (quiet s).Safe :=
  ⟨{ hs.inv with rsp_legal := nofun }, hs.todo_admitted, hs.program_admitted⟩

theorem externalWrite_safe (hs : s.Safe) (a : BitVec 7) (v : Byte) (rest : List EnvEvent) :
    (externalWrite a v (s.setEnv rest)).Safe :=
  ⟨{ hs.inv with mem_wf := Memory.wf_setByte hs.inv.mem_wf a.isLt }, hs.todo_admitted, hs.program_admitted⟩

theorem hostStep_safe (hs : s.Safe) : ∃ t, hostStep s = .next t ∧ t.Safe := by
  cases htodo : s.todo with
  | cons m rest =>
    obtain ⟨hm, hrest⟩ := List.forall_mem_cons.1 (htodo ▸ hs.todo_admitted)
    have hs' : (s.setTodo rest).Safe := ⟨{ hs.inv with }, hrest, hs.program_admitted⟩
    have hp := microStep_proceeds hs'.inv m
    rw [hm] at hp
    obtain ⟨t, ht, hf⟩ := hp.next
    exact ⟨t, (hostStep_micro htodo).trans ht, hf.safe hs'⟩
  | nil =>
    cases hprog : s.program with
    | nil => exact ⟨s, by simp [hostStep, htodo, hprog], hs⟩
    | cons request rest =>
      obtain ⟨hr, hrest⟩ := List.forall_mem_cons.1 (hprog ▸ hs.program_admitted)
      have hs' : (s.setProgram rest).Safe := ⟨{ hs.inv with }, hs.todo_admitted, hrest⟩
      cases request with
      | command w =>
        obtain ⟨r, v, hc⟩ := command_frame w (s.setProgram rest)
        exact ⟨_, (hostStep_command htodo hprog).trans hc, (command_follows hs'.inv hc).safe hs'⟩
      | sequence op =>
        exact ⟨_, hostStep_sequence htodo hprog,
          { hs'.inv with off_even := rfl }, allAdmitted_expand s.params hr, hrest⟩

end

/-- Settles O36: an external write keeps a safe system safe, and the host's step goes on to a safe one. -/
theorem safeSystemNeverStops : Obligations.SafeSystemNeverStops := by
  intro s hs
  obtain ⟨a, v, rest, -, h⟩ | h := step_cases s
  · exact ⟨_, h, externalWrite_safe (quiet_safe hs) a v rest⟩
  · rw [h]
    exact hostStep_safe (quiet_safe hs)

end Sys2Proof.Machine
end

section
/-! A command and the buffer: it runs alike over any buffer. Then the bytes of a record by colour. -/

namespace Sys2Proof.Machine

/-! ### Commands and the buffer -/

/-- A command runs over any other buffer as it runs over its own, which it does not touch (20_memory R42). -/
theorem exec_setMem {i : Instr} {s t : State} (h : exec i s = .next t) (m : Memory) :
    exec i (s.setMem m) = .next (t.setMem m) := by
  cases i with
  | pack r g b =>
    simp only [exec, execPack] at h ⊢
    split at h
    case isTrue hc => rw [if_pos hc]; cases h; rfl
    case isFalse hc => rw [if_neg hc]; cases h; rfl
  | unpack p => cases h; rfl
  | boff x y rot =>
    simp only [exec, execBoff, State.setMem_params] at h ⊢
    split at h
    case h_1 r hc => cases h; rfl
    case h_2 e hc => cases h; rfl
  | boffr x y =>
    simp only [exec, execBoffr] at h ⊢
    split at h
    case isTrue hc => rw [if_pos hc]; cases h; rfl
    case isFalse hc => rw [if_neg hc]; cases h; rfl
  | setrot v =>
    simp only [exec, execSetrot] at h ⊢
    split at h
    case h_1 r hc => cases h; rfl
    case h_2 hc => cases h; rfl
  | getrot => cases h; rfl

/-- Settles O24: the frame of a command, and that it runs alike over any buffer. -/
theorem commandsIgnoreMemory : Obligations.CommandsIgnoreMemory := by
  intro i s
  obtain ⟨r, w, h⟩ := exec_frame i s
  exact ⟨_, h, rfl, exec_setMem h⟩

/-! ### The bytes of a record -/

/-- The low byte of a pixel is the low half of green above blue. -/
theorem pixel_lowByte (p : Pixel) : p.extractLsb' 0 8 = (p.extractLsb' 5 6).extractLsb' 0 3 ++ p.extractLsb' 0 5 := by
  have hgreen : (p.extractLsb' 5 6).extractLsb' 0 3 = p.extractLsb' 5 3 := by
    ext i hi
    simp [show i < 6 by omega]
  rw [hgreen]
  exact (BitVec.extractLsb'_append_extractLsb'_eq_extractLsb' (start₁ := 0) (len₁ := 5) (len₂ := 3) rfl).symm

/-- The high byte of a pixel is red above the high half of green. -/
theorem pixel_highByte (p : Pixel) : p.extractLsb' 8 8 = p.extractLsb' 11 5 ++ (p.extractLsb' 5 6).extractLsb' 3 3 := by
  have hgreen : (p.extractLsb' 5 6).extractLsb' 3 3 = p.extractLsb' 8 3 := by
    ext i hi
    simp [show 5 + (3 + i) = 8 + i by omega, show 3 + i < 6 by omega]
  rw [hgreen]
  exact (BitVec.extractLsb'_append_extractLsb'_eq_extractLsb' (start₁ := 8) (len₁ := 3) (len₂ := 5) rfl).symm

/-- Settles O38: a record's bytes are the low and the high byte of its pixel, cut at the fields of the colour. -/
theorem recordBytesByColour : Obligations.RecordBytesByColour := by
  intro m i p
  refine ⟨?_, ?_⟩
  · rw [← pixel_lowByte]
    exact (byteAt_record m (2 * i) p (2 * i)).trans (if_pos rfl)
  · rw [← pixel_highByte]
    exact (byteAt_record m (2 * i) p (2 * i + 1)).trans ((if_neg (by omega)).trans (if_pos rfl))

end Sys2Proof.Machine
end

section
/-! External writers: what they do in a step of their own, and in the midst of a port operation. Reads can be torn:
`Interference.tearing` lets an operation come to any bytes it likes after all the external writes and to the others
before them; a record write has one moment for both its bytes. -/

namespace Sys2Proof.Machine

/-! ### An external writer's step -/

theorem step_external {s : State} {a : BitVec 7} {v : Byte} {rest : List EnvEvent} (h : s.env = .external a v :: rest) :
    step s = .next (externalWrite a v ((quiet s).setEnv rest)) := by
  simp [step, agentStep, h]

/-- Settles O31: an external writer's step sets one byte. -/
theorem externalWriteChangesOneByte : Obligations.ExternalWriteChangesOneByte := by
  intro s a v rest h
  refine ⟨_, step_external h, rfl, ?_, fun b hb => ?_⟩
  · exact (Memory.byteAt_setByte s.mem a.toNat v a.toNat).trans (if_pos rfl)
  · exact (Memory.byteAt_setByte s.mem a.toNat v b).trans (if_neg hb)

/-! ### A port operation that succeeds, with external writes in its midst -/

section
variable {s : State} {i : Interference} {rest : List EnvEvent} (he : s.env = .portDuring .ok i :: rest)
include he

theorem portReadAll_during : ∃ t, portReadAll s = .next t ∧ t.mem = Memory.externalWrites s.mem i.writes ∧
    t.scratch.buf = i.readFrame s.mem := by
  simp [portReadAll, takeOutcome_during he]

theorem portReadAt_during {off : Nat} (h : recordOffsetOk off = true) :
    ∃ t, portReadAt off 2 s = .next t ∧ t.mem = Memory.externalWrites s.mem i.writes ∧
      t.scratch.packs[0] = i.readRecord s.mem off := by
  simp [portReadAt, Config.recordBytes, h, takeOutcome_during he]

theorem portWriteRecord_during {off : Nat} (p : Pixel) (h : recordOffsetOk off = true) :
    portWriteRecord off p s = .next ((s.setEnv rest).setMem (i.writeRecord s.mem off p)) := by
  simp [portWriteRecord, h, takeOutcome_during he]

theorem portWriteAll_during (buf : Vector Byte 128) :
    portWriteAll buf s = .next ((s.setEnv rest).setMem (i.writeMany (writeFrame · buf) s.mem)) := by
  simp [portWriteAll, takeOutcome_during he]

end

/-! ### Torn reads -/

/-- External writers give every byte of the buffer a new value, in address order. -/
def overwrite (new : Vector Byte 128) : List ByteWrite := (List.finRange 128).map fun a => (BitVec.ofFin a, new[a])

/-- External writers give every byte a new value while an operation is under way: it gets to the bytes in `late` after
all these writes, and to the others before any of them. -/
def Interference.tearing (new : Vector Byte 128) (late : BitVec 128) : Interference where
  writes := overwrite new
  before := (List.range 128).map fun a => if late.getLsbD a then 128 else 0

section
variable (m : Memory) (new : Vector Byte 128) (late : BitVec 128) {a : Nat} (h : a < 128)

theorem Memory.byteAt_overwrite : Memory.byteAt (Memory.externalWrites m (overwrite new)) a = new[a] := by
  rw [Memory.externalWrites, overwrite, List.foldl_map]
  have hfold := byteAt_foldl_setByte (fun _ => true) (fun b => new[b]) (List.finRange 128) m ⟨a, h⟩
  simpa using hfold

/-- What the operation finds at a byte: the new value where it comes late, else the old one. -/
theorem Interference.seen_tearing :
    (Interference.tearing new late).seen m a = if late.getLsbD a then new[a] else Memory.byteAt m a := by
  have hmoment : (Interference.tearing new late).moment a = if late.getLsbD a then 128 else 0 := by
    simp [Interference.moment, Interference.tearing, h]
  rw [Interference.seen, hmoment]
  split
  · rw [List.take_of_length_le (by simp [Interference.tearing, overwrite])]
    exact Memory.byteAt_overwrite m new h
  · rfl

end

/-- A record after such writes has the new value of each of its two bytes. -/
theorem recordAt_overwrite (m : Memory) (new : Vector Byte 128) {off : Nat} (h : off + 1 < 128) :
    recordAt (Memory.externalWrites m (overwrite new)) off = new[off + 1] ++ new[off] := by
  rw [recordAt_eq, Memory.byteAt_overwrite m new h, Memory.byteAt_overwrite m new (by omega)]

/-- Whatever bytes external writers put in the buffer, a READALL can copy any mixture of old and new ones. -/
theorem portReadAll_mixture (s : State) (new : Vector Byte 128) (mask : BitVec 128) (rest : List EnvEvent) :
    ∃ (i : Interference) (t : State), portReadAll { s with env := .portDuring .ok i :: rest } = .next t ∧
      ∀ (a : Nat) (h : a < 128), Memory.byteAt t.mem a = new[a] ∧
        t.scratch.buf[a] = if mask.getLsbD a then new[a] else Memory.byteAt s.mem a := by
  obtain ⟨t, ht, hmem, hbuf⟩ :=
    portReadAll_during (s := { s with env := .portDuring .ok (.tearing new mask) :: rest }) rfl
  refine ⟨_, t, ht, fun a h => ⟨?_, ?_⟩⟩
  · rw [hmem]
    exact Memory.byteAt_overwrite s.mem new h
  · rw [getElem_congr_coll hbuf, Interference.readFrame_get]
    exact Interference.seen_tearing s.mem new mask h

/-- A READAT can find the old low byte and the new high byte of a record that external writers replace. -/
theorem portReadAt_torn {off : Nat} (s : State) (v : Pixel) (rest : List EnvEvent) (heven : off % 2 = 0)
    (hle : off ≤ 126) :
    ∃ (i : Interference) (t : State), portReadAt off 2 { s with env := .portDuring .ok i :: rest } = .next t ∧
      recordAt t.mem off = v ∧ t.scratch.packs[0] = v.extractLsb' 8 8 ++ Memory.byteAt s.mem off := by
  obtain ⟨new, hnew⟩ : ∃ new, new = readFrame (memWrite s.mem off Config.recordBytes v.toNat) := ⟨_, rfl⟩
  have hlow : new[off] = v.extractLsb' 0 8 := by simp [hnew, byteAt_record]
  have hhigh : new[off + 1] = v.extractLsb' 8 8 := by simp [hnew, byteAt_record]
  obtain ⟨t, ht, hmem, hpack⟩ := portReadAt_during
    (s := { s with env := .portDuring .ok (.tearing new (BitVec.twoPow 128 (off + 1))) :: rest }) rfl
    (recordOffsetOk_iff.2 ⟨heven, hle⟩)
  refine ⟨_, t, ht, ?_, ?_⟩
  · rw [hmem]
    refine (recordAt_overwrite s.mem new (by omega)).trans ?_
    rw [hlow, hhigh]
    exact BitVec.extractLsb'_append_extractLsb'
  · rw [hpack, Interference.readRecord_eq, Interference.seen_tearing _ _ _ (by omega),
      Interference.seen_tearing _ _ _ (by omega), hhigh]
    have hlt : off + 1 < 128 := by omega
    simp [BitVec.getLsbD_twoPow, hlt]

/-! ### Writes -/

/-- A record write among external writes has one moment for both its bytes. -/
theorem portWriteRecord_atomic {off : Nat} (p : Pixel) {s : State} {i : Interference} {rest : List EnvEvent}
    (heven : off % 2 = 0) (hle : off ≤ 126) (he : s.env = .portDuring .ok i :: rest) :
    ∃ t n, portWriteRecord off p s = .next t ∧ t = { s with mem := t.mem, env := rest } ∧
      recordAt t.mem off = recordAt (Memory.externalWrites (memWrite s.mem off 2 p.toNat) (i.writes.drop n)) off ∧
      ∀ a, a ≠ off → a ≠ off + 1 →
        Memory.byteAt t.mem a = Memory.byteAt (Memory.externalWrites s.mem i.writes) a := by
  refine ⟨_, i.moment off, portWriteRecord_during he p (recordOffsetOk_iff.2 ⟨heven, hle⟩), rfl, ?_, ?_⟩
  · simp only [State.setMem_mem, recordAt_eq]
    rw [Interference.byteAt_writeRecord, Interference.byteAt_writeRecord, if_pos (.inr rfl), if_pos (.inl rfl)]
    rfl
  · intro a hlow hhigh
    exact (i.byteAt_writeRecord s.mem off p a).trans (if_neg (not_or.2 ⟨hlow, hhigh⟩))

/-- On each byte a WRITEALL writes, the external writes from that byte's moment on stand. -/
theorem portWriteAll_amongWrites (buf : Vector Byte 128) {s : State} {i : Interference} {rest : List EnvEvent}
    (he : s.env = .portDuring .ok i :: rest) :
    ∃ t, portWriteAll buf s = .next t ∧ t = { s with mem := t.mem, env := rest } ∧
      ∀ a, a < 128 → Memory.byteAt t.mem a =
        Memory.byteAt (Memory.externalWrites (writeFrame s.mem buf) (i.writes.drop (i.moment a))) a := by
  refine ⟨_, portWriteAll_during he buf, rfl, fun a h => ?_⟩
  refine (i.byteAt_writeMany (writeFrame · buf) s.mem a).trans (Memory.byteAt_externalWrites_congr _ ?_)
  rw [byteAt_writeFrame _ buf a h, byteAt_writeFrame _ buf a h]

/-- Settles O60: reads can be torn, a record write is atomic, a WRITEALL goes byte by byte. -/
theorem portOperationsAmongExternalWrites : Obligations.PortOperationsAmongExternalWrites :=
  ⟨portReadAll_mixture, fun _ s v rest heven hle => portReadAt_torn s v rest heven hle,
    fun _ p _ _ _ heven hle he => portWriteRecord_atomic p heven hle he,
    fun buf _ _ _ he => portWriteAll_amongWrites buf he⟩

end Sys2Proof.Machine
end

section
/-! The opcode map read field by field: a row accepts a word exactly when `OPC` is the row's, `RSV` is zero and so is
every slot the row does not use (30_encoding R60). So an accepted word is the word of a command, which with
`decode_encode` settles what a word decodes to; and a word that no row accepts fails in one of the three ways of R62. -/

namespace Sys2Proof

/-- Settles O2: the operands are read back from their slots, and the word meets its own row and no other. -/
theorem decodeEncodeRoundTrip : Obligations.DecodeEncodeRoundTrip := fun _ h => decode_encode h

/-! ### A word is its five fields (30_encoding R56) -/

theorem append_fields (w : Cmd) : opcField w ++ rsvField w ++ slotA w ++ slotB w ++ slotC w = w := by
  have hopc : opcField w ++ rsvField w = w.extractLsb' 48 16 :=
    BitVec.extractLsb'_append_extractLsb'_eq_extractLsb' rfl
  have ha : w.extractLsb' 48 16 ++ slotA w = w.extractLsb' 32 32 :=
    BitVec.extractLsb'_append_extractLsb'_eq_extractLsb' rfl
  have hb : w.extractLsb' 32 32 ++ slotB w = w.extractLsb' 16 48 :=
    BitVec.extractLsb'_append_extractLsb'_eq_extractLsb' rfl
  have hc : w.extractLsb' 16 48 ++ slotC w = w.extractLsb' 0 64 :=
    BitVec.extractLsb'_append_extractLsb'_eq_extractLsb' rfl
  rw [hopc, ha, hb, hc, BitVec.extractLsb'_eq_self]

theorem commandWord_fields {w : Cmd} (h : rsvField w = 0) :
    commandWord (opcField w) (slotA w) (slotB w) (slotC w) = w :=
  (congrArg (fun v => opcField w ++ v ++ slotA w ++ slotB w ++ slotC w) h.symm).trans (append_fields w)

theorem eq_iff_fields {v w : Cmd} : v = w ↔ opcField v = opcField w ∧ rsvField v = rsvField w ∧
    slotA v = slotA w ∧ slotB v = slotB w ∧ slotC v = slotC w := by
  constructor
  · rintro rfl
    exact ⟨rfl, rfl, rfl, rfl, rfl⟩
  · rintro ⟨hopc, hrsv, ha, hb, hc⟩
    rw [← append_fields v, hopc, hrsv, ha, hb, hc, append_fields]

theorem opcField_and (v w : Cmd) : opcField (v &&& w) = opcField v &&& opcField w := BitVec.extractLsb'_and

theorem rsvField_and (v w : Cmd) : rsvField (v &&& w) = rsvField v &&& rsvField w := BitVec.extractLsb'_and

theorem slotA_and (v w : Cmd) : slotA (v &&& w) = slotA v &&& slotA w := BitVec.extractLsb'_and

theorem slotB_and (v w : Cmd) : slotB (v &&& w) = slotB v &&& slotB w := BitVec.extractLsb'_and

theorem slotC_and (v w : Cmd) : slotC (v &&& w) = slotC v &&& slotC w := BitVec.extractLsb'_and

/-! ### The rows, field by field (30_encoding R57, R60) -/

/-- Every slot that the row does not use is zero. -/
def Mnemonic.UnusedSlotsZero (w : Cmd) : Mnemonic → Prop
  | .PACK => True
  | .UNPACK => slotA w = 0 ∧ slotB w = 0
  | .BOFF => True
  | .BOFFR => slotC w = 0
  | .SETROT => slotA w = 0 ∧ slotB w = 0
  | .GETROT => slotA w = 0 ∧ slotB w = 0 ∧ slotC w = 0

/-- A row accepts exactly the words with its opcode and zeros wherever it uses no bit. -/
theorem Mnemonic.accepts_iff {m : Mnemonic} {w : Cmd} :
    m.accepts w = true ↔ opcField w = m.opcode ∧ rsvField w = 0 ∧ m.UnusedSlotsZero w := by
  rw [Mnemonic.accepts, beq_iff_eq, eq_iff_fields, opcField_and, rsvField_and, slotA_and, slotB_and, slotC_and]
  have hones8 (v : BitVec 8) : v &&& 0xFF#8 = v := BitVec.and_allOnes
  have hones16 (v : Slot) : v &&& 0xFFFF#16 = v := BitVec.and_allOnes
  cases m <;> simp [opcField, rsvField, slotA, slotB, slotC, hones8, hones16, Mnemonic.maskBits, Mnemonic.matchBits,
    Mnemonic.opcode, Mnemonic.UnusedSlotsZero]

/-! ### What an accepted word decodes to -/

/-- A word that a row accepts is the word of a well-formed command: no bit of it is ignored (30_encoding R63). -/
theorem Mnemonic.exists_encode_of_accepts {m : Mnemonic} {w : Cmd} (h : m.accepts w = true) :
    ∃ i, i.wellFormed = true ∧ encode i = w := by
  obtain ⟨hopc, hrsv, hunused⟩ := Mnemonic.accepts_iff.1 h
  have hw : commandWord m.opcode (slotA w) (slotB w) (slotC w) = w := hopc ▸ commandWord_fields hrsv
  cases m with
  | PACK =>
    exact ⟨.pack (sext16 (slotA w)) (sext16 (slotB w)) (sext16 (slotC w)),
      by simp [Instr.wellFormed, slotFits_sext16], by simpa [encode, toSlot_sext16] using hw⟩
  | UNPACK =>
    obtain ⟨ha, hb⟩ := hunused
    rw [ha, hb] at hw
    exact ⟨.unpack (slotC w), rfl, hw⟩
  | BOFF =>
    exact ⟨.boff (sext16 (slotA w)) (sext16 (slotB w)) (sext16 (slotC w)),
      by simp [Instr.wellFormed, slotFits_sext16], by simpa [encode, toSlot_sext16] using hw⟩
  | BOFFR =>
    rw [show slotC w = 0 from hunused] at hw
    exact ⟨.boffr (sext16 (slotA w)) (sext16 (slotB w)),
      by simp [Instr.wellFormed, slotFits_sext16], by simpa [encode, toSlot_sext16] using hw⟩
  | SETROT =>
    obtain ⟨ha, hb⟩ := hunused
    rw [ha, hb] at hw
    exact ⟨.setrot (sext16 (slotC w)), slotFits_sext16 _, by simpa [encode, toSlot_sext16] using hw⟩
  | GETROT =>
    obtain ⟨ha, hb, hc⟩ := hunused
    rw [ha, hb, hc] at hw
    exact ⟨.getrot, rfl, hw⟩

/-- Settles O3: a decoded word is accepted by a row, so it is the word of some well-formed command, which is the one
it decodes to. -/
theorem encodeInvertsDecode : Obligations.EncodeInvertsDecode := by
  intro w i h
  obtain ⟨j, hwf, rfl⟩ := Mnemonic.exists_encode_of_accepts (accepts_of_decode h)
  obtain rfl : j = i := Except.ok.inj ((decode_encode hwf).symm.trans h)
  exact ⟨hwf, rfl⟩

/-- The rows are told apart by their opcodes, so a word is accepted by at most one. -/
theorem Mnemonic.accepts_unique {m n : Mnemonic} {w : Cmd} (hm : m.accepts w = true) (hn : n.accepts w = true) :
    m = n :=
  Mnemonic.opcode_injective ((Mnemonic.opcField_of_accepts hm).symm.trans (Mnemonic.opcField_of_accepts hn))

/-- A word is a command of a row exactly when the row accepts it (30_encoding R60). -/
theorem exists_decode_iff_accepts {w : Cmd} {m : Mnemonic} :
    (∃ i, decode w = .ok i ∧ i.mnemonic = m) ↔ m.accepts w = true := by
  constructor
  · rintro ⟨i, hd, rfl⟩
    exact accepts_of_decode hd
  · intro h
    obtain ⟨i, hwf, rfl⟩ := Mnemonic.exists_encode_of_accepts h
    have hd := decode_encode hwf
    exact ⟨i, hd, Mnemonic.accepts_unique (accepts_of_decode hd) h⟩

/-- A word that no row accepts is no command. -/
theorem decode_of_rejected {w : Cmd} (h : ∀ m : Mnemonic, m.accepts w = false) :
    decode w = .error (whyIllegal w) := by
  simp [decode, h]

/-- A word is illegal exactly when no row accepts it (30_encoding R60). -/
theorem rejected_iff_exists_decode_error {w : Cmd} :
    (∀ m : Mnemonic, m.accepts w = false) ↔ ∃ e, decode w = .error e := by
  constructor
  · exact fun h => ⟨_, decode_of_rejected h⟩
  · rintro ⟨e, he⟩ m
    rw [Bool.eq_false_iff]
    intro hm
    obtain ⟨i, hd, -⟩ := exists_decode_iff_accepts.2 hm
    cases hd.symm.trans he

/-- Settles O4: what a row accepts decides what a word is; the columns are read off the table. -/
theorem opcodeMapDecides : Obligations.OpcodeMapDecides := by
  have haccepts (w : Cmd) (m : Mnemonic) : w &&& m.maskBits = m.matchBits ↔ m.accepts w = true := beq_iff_eq.symm
  refine ⟨fun w m => ?_, fun w m n hm hn => ?_, fun w => ?_, fun m => ?_, rfl, rfl, rfl⟩
  · rw [haccepts]
    exact exists_decode_iff_accepts
  · rw [haccepts] at hm hn
    exact Mnemonic.accepts_unique hm hn
  · simp only [Ne, haccepts, Bool.not_eq_true]
    exact rejected_iff_exists_decode_error
  · cases m <;> rfl

/-! ### Why a word is illegal (30_encoding R62) -/

/-- Which opcodes stand in the map (30_encoding R60). -/
theorem Mnemonic.contains_opcodes {opc : BitVec 8} :
    (Mnemonic.all.map Mnemonic.opcode).contains opc = true ↔ ∃ m : Mnemonic, opc = m.opcode := by
  have hall (m : Mnemonic) : m ∈ Mnemonic.all := by cases m <;> decide
  simp only [List.contains_iff_mem, List.mem_map, hall, true_and, eq_comm (a := opc)]

/-- The opcodes of the map are 1 to 6. -/
theorem Mnemonic.exists_opcode_iff {opc : BitVec 8} :
    (∃ m : Mnemonic, opc = m.opcode) ↔ ¬(opc.toNat = 0 ∨ 7 ≤ opc.toNat) := by
  constructor
  · rintro ⟨m, rfl⟩
    cases m <;> decide
  · intro h
    have hof {m : Mnemonic} (hm : opc.toNat = m.opcode.toNat) : ∃ n : Mnemonic, opc = n.opcode :=
      ⟨m, BitVec.eq_of_toNat_eq hm⟩
    obtain h | h | h | h | h | h : opc.toNat = 1 ∨ opc.toNat = 2 ∨ opc.toNat = 3 ∨ opc.toNat = 4 ∨ opc.toNat = 5 ∨
        opc.toNat = 6 := by omega
    · exact hof (m := .PACK) h
    · exact hof (m := .UNPACK) h
    · exact hof (m := .BOFF) h
    · exact hof (m := .BOFFR) h
    · exact hof (m := .SETROT) h
    · exact hof (m := .GETROT) h

section
variable {w : Cmd} {m : Mnemonic}

/-- Case (a): no row has the word's opcode. -/
theorem decode_unassignedOpcode (h : ¬∃ m : Mnemonic, opcField w = m.opcode) :
    decode w = .error .unassignedOpcode := by
  have hrej (m : Mnemonic) : m.accepts w = false :=
    Bool.eq_false_iff.2 fun hm => h ⟨m, Mnemonic.opcField_of_accepts hm⟩
  rw [decode_of_rejected hrej, whyIllegal, if_neg (mt Mnemonic.contains_opcodes.1 h)]

/-- A word with the opcode of a row that does not accept it is illegal by its `RSV`, or else by a slot. -/
theorem decode_of_not_accepts (hopc : opcField w = m.opcode) (h : ¬m.accepts w = true) :
    decode w = .error (if rsvField w = 0 then .unusedSlot else .reservedField) := by
  have hrej (n : Mnemonic) : n.accepts w = false := by
    refine Bool.eq_false_iff.2 fun hn => h ?_
    rwa [Mnemonic.opcode_injective (hopc.symm.trans (Mnemonic.opcField_of_accepts hn))]
  rw [decode_of_rejected hrej, whyIllegal, if_pos (Mnemonic.contains_opcodes.2 ⟨m, hopc⟩)]

/-- Case (b): `RSV` is not zero. -/
theorem decode_reservedField (hopc : opcField w = m.opcode) (hrsv : rsvField w ≠ 0) :
    decode w = .error .reservedField := by
  rw [decode_of_not_accepts hopc fun h => hrsv (Mnemonic.accepts_iff.1 h).2.1, if_neg hrsv]

/-- Case (c): a slot that must be 0 is not. -/
theorem decode_unusedSlot (hopc : opcField w = m.opcode) (hrsv : rsvField w = 0) (hunused : ¬m.UnusedSlotsZero w) :
    decode w = .error .unusedSlot := by
  rw [decode_of_not_accepts hopc fun h => hunused (Mnemonic.accepts_iff.1 h).2.2, if_pos hrsv]

/-- None of the three: the word is a command. -/
theorem decode_legal (hopc : opcField w = m.opcode) (hrsv : rsvField w = 0) (hunused : m.UnusedSlotsZero w) :
    ∃ i, decode w = .ok i :=
  (exists_decode_iff_accepts.2 (Mnemonic.accepts_iff.2 ⟨hopc, hrsv, hunused⟩)).imp fun _ h => h.1

/-- The slots that must be 0, row by row, as 30_encoding R62 (c) lists them. -/
theorem Mnemonic.not_unusedSlotsZero_iff (hopc : opcField w = m.opcode) :
    ¬m.UnusedSlotsZero w ↔
      ((opcField w).toNat = 2 ∧ (slotA w ≠ 0 ∨ slotB w ≠ 0)) ∨ ((opcField w).toNat = 4 ∧ slotC w ≠ 0) ∨
        ((opcField w).toNat = 5 ∧ (slotA w ≠ 0 ∨ slotB w ≠ 0)) ∨
        ((opcField w).toNat = 6 ∧ (slotA w ≠ 0 ∨ slotB w ≠ 0 ∨ slotC w ≠ 0)) := by
  rw [hopc]
  cases m <;> simp [Mnemonic.UnusedSlotsZero, Mnemonic.opcode, imp_iff_not_or]

end

end Sys2Proof
end

section
/-! The command port: the answer to each of the 2^64 words, illegal or a command with its operands in their slots
(30_encoding R57, R61, R62), and the assembled PACK (R65). -/

namespace Sys2Proof.Machine

/-! ### Every word is answered -/

/-- Settles O22: a word touches ROT and the response only, and its response is legal. -/
theorem everyWordIsAnswered : Obligations.EveryWordIsAnswered := by
  intro w s
  obtain ⟨r, v, hc⟩ := command_frame w s
  obtain ⟨u, hu, hlegal⟩ := command_rsp_legal hc
  obtain rfl : v = u := Option.some.inj hu
  exact ⟨_, v, hc, rfl, hlegal⟩

/-- The answer to an illegal word (30_encoding R58, R59). -/
theorem errorWord_illegalCommand : errorWord .illegalCommand = 0x6000_0000 := rfl

/-- Settles O5: the opcode is in the map or not, `RSV` is zero or not, and the row's unused slots are zero or not; in
each case the word decodes to one outcome, and to be illegal is all that its answer depends on. -/
theorem illegalWordsAnswered : Obligations.IllegalWordsAnswered := by
  intro w opc rsv a b c unassigned slotMustBeZero
  have answered {e : Reject} (h : decode w = .error e) (s : State) :
      command w s = .next { s with rsp := some 0x6000_0000 } := command_of_reject h s
  by_cases hun : unassigned
  · have hd : decode w = .error .unassignedOpcode :=
      decode_unassignedOpcode fun hm => Mnemonic.exists_opcode_iff.1 hm hun
    exact ⟨iff_of_true hd hun, iff_of_false (by simp [hd]) fun h => h.1 hun,
      iff_of_false (by simp [hd]) fun h => h.1 hun, fun _ => answered hd⟩
  obtain ⟨m, hopc⟩ := Mnemonic.exists_opcode_iff.2 hun
  have hslots : ¬m.UnusedSlotsZero w ↔ slotMustBeZero := Mnemonic.not_unusedSlotsZero_iff hopc
  by_cases hrsv : rsv = 0
  · by_cases hunused : m.UnusedSlotsZero w
    · obtain ⟨i, hd⟩ := decode_legal hopc hrsv hunused
      have hzero : ¬slotMustBeZero := fun h => hslots.2 h hunused
      have hlegal : ¬(unassigned ∨ rsv ≠ 0 ∨ slotMustBeZero) :=
        not_or.2 ⟨hun, not_or.2 ⟨not_not.2 hrsv, hzero⟩⟩
      exact ⟨iff_of_false (by simp [hd]) hun, iff_of_false (by simp [hd]) fun h => h.2 hrsv,
        iff_of_false (by simp [hd]) fun h => hzero h.2.2, fun h => absurd h hlegal⟩
    · have hd := decode_unusedSlot hopc hrsv hunused
      exact ⟨iff_of_false (by simp [hd]) hun, iff_of_false (by simp [hd]) fun h => h.2 hrsv,
        iff_of_true hd ⟨hun, hrsv, hslots.1 hunused⟩, fun _ => answered hd⟩
  · have hd := decode_reservedField hopc hrsv
    exact ⟨iff_of_false (by simp [hd]) hun, iff_of_true hd ⟨hun, hrsv⟩,
      iff_of_false (by simp [hd]) fun h => hrsv h.2.1, fun _ => answered hd⟩

/-! ### Operands are whole slots -/

/-- A word is the command whose word it is, where that command's operands fit their slots. -/
theorem decode_of_encode_eq {w : Cmd} {i : Instr} (hwf : i.wellFormed = true) (h : encode i = w) :
    decode w = .ok i :=
  h ▸ decode_encode hwf

section
variable (a b c : Slot)

theorem decode_packWord :
    decode (commandWord Mnemonic.PACK.opcode a b c) = .ok (.pack (sext16 a) (sext16 b) (sext16 c)) :=
  decode_of_encode_eq (by simp [Instr.wellFormed, slotFits_sext16]) (by simp [encode, toSlot_sext16])

theorem decode_unpackWord : decode (commandWord Mnemonic.UNPACK.opcode 0 0 c) = .ok (.unpack c) :=
  decode_encode (i := .unpack c) rfl

theorem decode_boffWord :
    decode (commandWord Mnemonic.BOFF.opcode a b c) = .ok (.boff (sext16 a) (sext16 b) (sext16 c)) :=
  decode_of_encode_eq (by simp [Instr.wellFormed, slotFits_sext16]) (by simp [encode, toSlot_sext16])

theorem decode_boffrWord :
    decode (commandWord Mnemonic.BOFFR.opcode a b 0) = .ok (.boffr (sext16 a) (sext16 b)) :=
  decode_of_encode_eq (by simp [Instr.wellFormed, slotFits_sext16]) (by simp [encode, toSlot_sext16])

theorem decode_setrotWord : decode (commandWord Mnemonic.SETROT.opcode 0 0 c) = .ok (.setrot (sext16 c)) :=
  decode_of_encode_eq (slotFits_sext16 c) (by simp [encode, toSlot_sext16])

theorem decode_getrotWord : decode (commandWord Mnemonic.GETROT.opcode 0 0 0) = .ok .getrot :=
  decode_encode (i := .getrot) rfl

end

/-- Settles O6: each word is decoded to the command with its slots as operands, and that command is executed. -/
theorem commandPortReadsSlots : Obligations.CommandPortReadsSlots := fun a b c s =>
  ⟨command_of_decode (decode_packWord a b c) s, command_of_decode (decode_unpackWord c) s,
    command_of_decode (decode_boffWord a b c) s, command_of_decode (decode_boffrWord a b) s,
    command_of_decode (decode_setrotWord c) s, command_of_decode decode_getrotWord s⟩

/-- Settles O1: each word is evaluated. -/
theorem specWordsDecode : Obligations.SpecWordsDecode := by
  unfold Obligations.SpecWordsDecode
  decide

/-! ### The assembler -/

theorem asmSlot_eq_some {v : Int} (hlow : -32768 ≤ v) (hhigh : v ≤ 65535) : asmSlot v = some (toSlot v) :=
  if_pos ⟨hlow, hhigh⟩

theorem asmSlot_eq_none {v : Int} (h : v < -32768 ∨ 65535 < v) : asmSlot v = none :=
  if_neg (by omega)

/-- What the slot of any integer reads as: the value modulo 2^16, signed (30_encoding R57, R65). -/
theorem sext16_toSlot_eq_bmod (v : Int) : sext16 (toSlot v) = Int.bmod v 65536 := BitVec.toInt_ofInt v

/-- One refused operand refuses them all. -/
theorem mapM_asmSlot_eq_none {v : Int} {operands : List Int} (hmem : v ∈ operands) (h : asmSlot v = none) :
    operands.mapM asmSlot = none := by
  induction operands with
  | nil => cases hmem
  | cons u operands ih =>
    obtain rfl | hmem := List.mem_cons.1 hmem
    · simp [h]
    · simp [ih hmem]

theorem assemble_refused (m : Mnemonic) {v : Int} {operands : List Int} (hmem : v ∈ operands)
    (h : v < -32768 ∨ 65535 < v) : assemble m operands = none := by
  unfold assemble
  rw [mapM_asmSlot_eq_none hmem (asmSlot_eq_none h)]
  cases m <;> rfl

theorem assemble_pack {operands : List Int} {a b c : Slot} (h : operands.mapM asmSlot = some [a, b, c]) :
    assemble .PACK operands = some (commandWord Mnemonic.PACK.opcode a b c) := by
  unfold assemble
  rw [h]

/-- Settles O7: three operands in range give the word of their slots, and one out of range gives none. -/
theorem assembledPackDecodes : Obligations.AssembledPackDecodes := by
  refine ⟨fun r g b hr hr' hg hg' hb hb' => ?_, fun r g b h => ?_⟩
  · have hslots : [r, g, b].mapM asmSlot = some [toSlot r, toSlot g, toSlot b] := by
      simp [asmSlot_eq_some hr hr', asmSlot_eq_some hg hg', asmSlot_eq_some hb hb']
    refine ⟨_, _, assemble_pack hslots, decode_packWord _ _ _, ?_⟩
    simp only [sext16_toSlot_eq_bmod]
  · obtain ⟨v, hmem, hv⟩ : ∃ v ∈ [r, g, b], v < -32768 ∨ 65535 < v := by simpa [or_assoc] using h
    exact assemble_refused .PACK hmem hv

end Sys2Proof.Machine
end

section
/-! A step that gives the block the front of the host's list (30_encoding R61), and the invariant kept by every step. -/

namespace Sys2Proof.Machine

/-! ### A step on a command word -/

/-- With no sequence in progress and no external write due, a step gives the word in front to the block, and uses it
up. -/
theorem step_command {s : State} {w : Cmd} {rest : List Request} (htodo : s.todo = [])
    (hprog : s.program = .command w :: rest) (henv : ∀ a v events, s.env ≠ .external a v :: events) :
    step s = command w { s with program := rest, rsp := none, report := none } :=
  (agentStep_host (s := quiet s) henv).trans (hostStep_command (s := quiet s) htodo hprog)

/-- After the external writes that are due have been dropped, none is due. -/
theorem dropWhile_isDue_ne_external (env : List EnvEvent) (a : BitVec 7) (v : Byte) (events : List EnvEvent) :
    env.dropWhile EnvEvent.isDue ≠ .external a v :: events := by
  intro h
  have hhead := List.head?_dropWhile_not EnvEvent.isDue env
  simp [h, EnvEvent.isDue] at hhead

/-- The word that `withFetchWord` puts in front is the word it is given. -/
theorem State.withFetchWord_program (s : State) (w : Cmd) :
    (s.withFetchWord 64 w.toNat).program = .command w :: s.program := by
  have hw : BitVec.ofNat 64 (w.toNat % 2 ^ 64) = w := by
    rw [Nat.mod_eq_of_lt w.isLt, BitVec.ofNat_toNat, BitVec.setWidth_eq]
  exact congrArg (fun v => Request.command v :: s.program) hw

/-- Settles O28: the block executes the command that the word in front is; what `withFetchWord` drops of the script is
the external writes it begins with. -/
theorem stepRunsDecodedInstruction : Obligations.StepRunsDecodedInstruction := by
  constructor
  · intro s w rest i htodo hprog henv hd
    rw [step_command htodo hprog henv, command_of_decode hd]
  · intro s w i hd
    refine ⟨s.env.dropWhile EnvEvent.isDue, ?_, s.env.takeWhile EnvEvent.isDue,
      List.takeWhile_append_dropWhile.symm, fun e he => List.mem_takeWhile_imp he⟩
    rw [step_command rfl (s.withFetchWord_program w) (dropWhile_isDue_ne_external s.env), command_of_decode hd]
    rfl

/-- Settles O29: the word in front is given to the block, which answers IllegalCommand. -/
theorem stepAnswersIllegalWord : Obligations.StepAnswersIllegalWord := by
  intro s w rest e htodo hprog henv hd
  rw [step_command htodo hprog henv, command_of_reject hd, errorWord_illegalCommand]
  rfl

/-! ### Every step keeps the invariant -/

/-- Where a step of a sequence goes on, whether or not it is admitted, the invariant holds after it. -/
theorem Proceeds.inv {s t : State} {admitted : Bool} {o : Host.Outcome State Fault Refusal}
    (h : Proceeds s admitted o) (ho : o = .next t) : t.Inv := by
  subst ho
  exact Follows.inv h

theorem quiet_inv {s : State} (hs : s.Inv) : (quiet s).Inv := { hs with rsp_legal := nofun }

theorem externalWrite_inv {s : State} (hs : s.Inv) (a : BitVec 7) (v : Byte) (rest : List EnvEvent) :
    (externalWrite a v (s.setEnv rest)).Inv := { hs with mem_wf := Memory.wf_setByte hs.mem_wf a.isLt }

theorem hostStep_inv {s t : State} (hs : s.Inv) (h : hostStep s = .next t) : t.Inv := by
  cases htodo : s.todo with
  | cons m rest =>
    have hs' : (s.setTodo rest).Inv := { hs with }
    exact (microStep_proceeds hs' m).inv ((hostStep_micro htodo).symm.trans h)
  | nil =>
    cases hprog : s.program with
    | nil =>
      simp only [hostStep, htodo, hprog] at h
      cases h
      exact hs
    | cons request rest =>
      have hs' : (s.setProgram rest).Inv := { hs with }
      cases request with
      | command w => exact (command_follows hs' ((hostStep_command htodo hprog).symm.trans h)).inv
      | sequence op =>
        rw [hostStep_sequence htodo hprog] at h
        cases h
        exact { hs' with off_even := rfl }

/-- Settles O35: dropping the outputs of the step before, an external write and the host's own step keep the
invariant. -/
theorem stepKeepsInvariant : Obligations.StepKeepsInvariant := by
  intro s t hs h
  obtain ⟨a, v, rest, -, hext⟩ | hhost := step_cases s
  · rw [hext] at h
    cases h
    exact externalWrite_inv (quiet_inv hs) a v rest
  · exact hostStep_inv (quiet_inv hs) (hhost.symm.trans h)

end Sys2Proof.Machine
end

section
/-! The colour codec by lanes (40_codec): packing keeps the high bits of each channel, unpacking puts zeros below them.
The laws of R72 to R74 follow from these two equations, `pack3_toNat` and `unpack3_eq`, and from what one lane does. -/

namespace Sys2Proof.Machine

/-! ### One lane: the high bits of a word, kept above zeros -/

section
variable {n k : Nat}

/-- Keeping the bits above `k` zeros takes a word down to a multiple of `2 ^ k`. -/
theorem toNat_extract_append_zero (v : BitVec (n + k)) :
    (v.extractLsb' k n ++ 0#k).toNat = v.toNat - v.toNat % 2 ^ k := by
  have hlt : v.toNat < 2 ^ k * 2 ^ n := by
    rw [Nat.mul_comm, ← Nat.pow_add]
    exact v.isLt
  have hhigh : v.toNat / 2 ^ k % 2 ^ n = v.toNat / 2 ^ k := Nat.mod_eq_of_lt (Nat.div_lt_of_lt_mul hlt)
  rw [BitVec.toNat_append, BitVec.extractLsb'_toNat, Nat.shiftRight_eq_div_pow, hhigh, BitVec.toNat_ofNat,
    Nat.zero_mod, Nat.or_zero, Nat.shiftLeft_eq, Nat.div_mul_self_eq_mod_sub_self]

/-- The word is kept whole exactly when the mask of its low `k` bits finds none. -/
theorem extract_append_zero_eq_self_iff {m : BitVec (n + k)} (hm : m.toNat = 2 ^ k - 1) (v : BitVec (n + k)) :
    v.extractLsb' k n ++ 0#k = v ↔ v &&& m = 0 := by
  have hle : v.toNat % 2 ^ k ≤ v.toNat := Nat.mod_le _ _
  have hand : v &&& m = 0 ↔ v.toNat % 2 ^ k = 0 := by
    rw [← BitVec.toNat_inj, BitVec.toNat_and, hm, Nat.and_two_pow_sub_one_eq_mod]
    simp
  rw [hand, ← BitVec.toNat_inj, toNat_extract_append_zero]
  omega

/-- A field of `n` bits shifted down, masked and shifted up (40_codec R69) is its bits above zeros. -/
theorem setWidth_field {m : Pixel} (hm : m.toNat = 2 ^ n - 1) (hwidth : n + k ≤ 16) (p : Pixel) (start : Nat) :
    BitVec.setWidth (n + k) (((p >>> start) &&& m) <<< k) = p.extractLsb' start n ++ 0#k := by
  have hmask (i : Nat) (hi : i < 16) : m[i] = decide (i < n) := by
    rw [← BitVec.getLsbD_eq_getElem, ← BitVec.testBit_toNat, hm, Nat.testBit_two_pow_sub_one]
  ext i hi
  by_cases hlow : i < k
  · simp [BitVec.getElem_append, hlow]
  · simp [BitVec.getElem_append, hlow, hmask, show i < 16 by omega, show i - k < n by omega]

end

/-! ### The two functions by lanes (40_codec R68, R69) -/

/-- `pack3` of three bytes is `{r[7:3], g[7:2], b[7:3]}`. -/
theorem pack3_toNat (r g b : Byte) :
    pack3 r.toNat g.toNat b.toNat = r.extractLsb' 3 5 ++ g.extractLsb' 2 6 ++ b.extractLsb' 3 5 := by
  have hr : r.toNat >>> 3 % 2 ^ 5 = r.toNat >>> 3 := by omega
  have hg : g.toNat >>> 2 % 2 ^ 6 = g.toNat >>> 2 := by omega
  have hb : b.toNat >>> 3 % 2 ^ 5 = b.toNat >>> 3 := by omega
  have hfields : (r.extractLsb' 3 5 ++ g.extractLsb' 2 6 ++ b.extractLsb' 3 5).toNat =
      r.toNat >>> 3 <<< 11 ||| g.toNat >>> 2 <<< 5 ||| b.toNat >>> 3 := by
    simp only [BitVec.toNat_append, BitVec.extractLsb'_toNat, hr, hg, hb, Nat.shiftLeft_or_distrib, ← Nat.shiftLeft_add]
  rw [pack3, ← hfields, BitVec.ofNat_toNat, BitVec.setWidth_eq]

/-- `unpack3` gives the three fields, each above zeros. -/
theorem unpack3_eq (p : Pixel) :
    unpack3 p = ⟨p.extractLsb' 11 5 ++ 0#3, p.extractLsb' 5 6 ++ 0#2, p.extractLsb' 0 5 ++ 0#3⟩ := by
  have hr := setWidth_field (n := 5) (k := 3) (m := 0x1F) rfl (by decide) p 11
  have hg := setWidth_field (n := 6) (k := 2) (m := 0x3F) rfl (by decide) p 5
  have hb := setWidth_field (n := 5) (k := 3) (m := 0x1F) rfl (by decide) p 0
  rw [BitVec.ushiftRight_zero] at hb
  rw [unpack3, hr, hg, hb]

/-- The channel-truncated projection of a Color (40_codec R72). -/
def Color.truncated (c : Color) : Color :=
  ⟨c.r.extractLsb' 3 5 ++ 0#3, c.g.extractLsb' 2 6 ++ 0#2, c.b.extractLsb' 3 5 ++ 0#3⟩

/-- Packing and unpacking truncates each channel. -/
theorem unpack3_pack3 (c : Color) : unpack3 (pack3 c.r.toNat c.g.toNat c.b.toNat) = c.truncated := by
  rw [pack3_toNat, unpack3_eq, BitVec.extractLsb'_append_eq_of_le (by decide), BitVec.extractLsb'_append_eq_left,
    BitVec.extractLsb'_append_eq_of_le (by decide), BitVec.extractLsb'_append_eq_right,
    BitVec.extractLsb'_append_eq_right]
  rfl

/-- Unpacking and packing gives the word back. -/
theorem pack3_unpack3 (p : Pixel) :
    pack3 (unpack3 p).r.toNat (unpack3 p).g.toNat (unpack3 p).b.toNat = p := by
  have hrg : p.extractLsb' 11 5 ++ p.extractLsb' 5 6 = p.extractLsb' 5 11 :=
    BitVec.extractLsb'_append_extractLsb'_eq_extractLsb' rfl
  rw [pack3_toNat, unpack3_eq, BitVec.extractLsb'_append_eq_left, BitVec.extractLsb'_append_eq_left,
    BitVec.extractLsb'_append_eq_left, hrg]
  exact BitVec.extractLsb'_append_extractLsb'

theorem unpack3_injective : Function.Injective unpack3 := fun p q h => by
  rw [← pack3_unpack3 p, h, pack3_unpack3]

/-- A Color is its own truncation exactly when its low bits are zero (40_codec R74). -/
theorem Color.truncated_eq_self_iff (c : Color) :
    c.truncated = c ↔ c.r &&& 7 = 0 ∧ c.g &&& 3 = 0 ∧ c.b &&& 7 = 0 := by
  have h3 := extract_append_zero_eq_self_iff (n := 5) (k := 3) (m := 7) rfl
  have h2 := extract_append_zero_eq_self_iff (n := 6) (k := 2) (m := 3) rfl
  rw [← h3, ← h2, ← h3]
  exact (Color.mk.injEq ..).to_iff

/-! ### The two commands -/

theorem channelOk_iff {v : Int} : channelOk v = true ↔ 0 ≤ v ∧ v ≤ 255 := by
  rw [channelOk, Bool.and_eq_true, decide_eq_true_iff, decide_eq_true_iff]
  rfl

/-- A number from 0 to 255 is a byte's. -/
theorem exists_byte_toNat {n : Nat} (h : n ≤ 255) : ∃ v : Byte, v.toNat = n :=
  ⟨BitVec.ofNat 8 n, Nat.mod_eq_of_lt (by omega)⟩

/-- A channel in range is a byte's. -/
theorem exists_byte_toInt {v : Int} (hlow : 0 ≤ v) (hhigh : v ≤ 255) : ∃ x : Byte, (x.toNat : Int) = v := by
  obtain ⟨x, hx⟩ := exists_byte_toNat (n := v.toNat) (by omega)
  exact ⟨x, by omega⟩

theorem channelOk_byte (v : Byte) : channelOk v.toNat = true := channelOk_iff.2 (by omega)

/-- The eight bits above the result of a response are zero (30_encoding R58). -/
theorem okWord_eq (res : Res) : okWord res = 0#8 ++ res := rfl

/-- A PackedPixel stands in its response below zeros (30_encoding R58). -/
theorem okWord_pixelRes (p : Pixel) : okWord (pixelRes p) = 0#16 ++ p := by
  have hfit : p.toNat % 2 ^ 24 = p.toNat := by omega
  apply BitVec.eq_of_toNat_eq
  rw [okWord_eq, BitVec.toNat_append, pixelRes, BitVec.toNat_setWidth, hfit, BitVec.toNat_append]
  rfl

/-- A Color stands in its response as three bytes below zeros (30_encoding R58). -/
theorem okWord_colorRes (c : Color) : okWord (colorRes c) = 0#8 ++ c.r ++ c.g ++ c.b := by
  have hflat : (0#8 ++ (c.r ++ c.g ++ c.b)).toNat = (0#8 ++ c.r ++ c.g ++ c.b).toNat := by
    simp only [BitVec.toNat_append, Nat.shiftLeft_or_distrib, ← Nat.shiftLeft_add, Nat.or_assoc]
  exact BitVec.eq_of_toNat_eq hflat

/-- PACK answers three bytes with their word. -/
theorem exec_pack_bytes (r g b : Byte) (s : State) :
    exec (.pack r.toNat g.toNat b.toNat) s = .next { s with rsp := some (0#16 ++ pack3 r.toNat g.toNat b.toNat) } := by
  simp only [exec, execPack, channelOk_byte, respond_eq, okWord_pixelRes, Int.toNat_natCast, Bool.and_self, if_true]
  rfl

/-- Settles O8: channels in range are bytes, whose word is their high bits; one out of range fails the check. -/
theorem packMeaning : Obligations.PackMeaning := by
  refine ⟨decode_packWord, fun r g b s hr hr' hg hg' hb hb' => ?_, fun r g b s h => ?_⟩
  · obtain ⟨r, rfl⟩ := exists_byte_toInt hr hr'
    obtain ⟨g, rfl⟩ := exists_byte_toInt hg hg'
    obtain ⟨b, rfl⟩ := exists_byte_toInt hb hb'
    simp only [exec_pack_bytes, pack3_toNat, BitVec.ofInt_natCast, BitVec.ofNat_toNat, BitVec.setWidth_eq]
  · have hbad : ¬(channelOk r && channelOk g && channelOk b) = true := by
      simp only [Bool.and_eq_true, channelOk_iff]
      omega
    exact if_neg hbad

theorem exec_unpack (p : Pixel) (s : State) :
    exec (.unpack p) s = .next { s with rsp := some (okWord (colorRes (unpack3 p))) } := rfl

/-- Settles O9: the word is UNPACK's when slots A and B are zero, and the answer is the fields above zeros. -/
theorem unpackMeaning : Obligations.UnpackMeaning := by
  refine ⟨decode_unpackWord, fun a b p hab => ?_, fun p s => ?_⟩
  · refine decode_unusedSlot (m := .UNPACK) (opcField_commandWord _ a b p) (rsvField_commandWord _ a b p) ?_
    rintro ⟨hslotA, hslotB⟩
    have ha : a = 0 := (slotA_commandWord _ a b p).symm.trans hslotA
    have hb : b = 0 := (slotB_commandWord _ a b p).symm.trans hslotB
    exact hab.elim (· ha) (· hb)
  · rw [exec_unpack, okWord_colorRes, unpack3_eq]

/-- Settles O10: the channels are bytes, and each is truncated to a multiple of 8, of 4, of 8. -/
theorem truncationLaw : Obligations.TruncationLaw := by
  intro r g b hr hg hb
  obtain ⟨r, rfl⟩ := exists_byte_toNat hr
  obtain ⟨g, rfl⟩ := exists_byte_toNat hg
  obtain ⟨b, rfl⟩ := exists_byte_toNat hb
  intro c
  have hc : c = Color.truncated ⟨r, g, b⟩ := unpack3_pack3 ⟨r, g, b⟩
  have hred : c.r.toNat = r.toNat - r.toNat % 8 := by
    rw [hc]
    exact toNat_extract_append_zero (n := 5) (k := 3) r
  have hgreen : c.g.toNat = g.toNat - g.toNat % 4 := by
    rw [hc]
    exact toNat_extract_append_zero (n := 6) (k := 2) g
  have hblue : c.b.toNat = b.toNat - b.toNat % 8 := by
    rw [hc]
    exact toNat_extract_append_zero (n := 5) (k := 3) b
  refine ⟨hred, hgreen, hblue, ?_⟩
  omega

/-- Settles O11: the fields come back, and the channels of an unpacked Color are bytes. -/
theorem packedRoundTrip : Obligations.PackedRoundTrip := by
  refine fun p => ⟨pack3_unpack3 p, fun s => ?_⟩
  rw [exec_pack_bytes, pack3_unpack3]

/-- Settles O12: truncation is unpacking after packing, and packing undoes unpacking. -/
theorem truncationIdempotent : Obligations.TruncationIdempotent := by
  intro c d T
  have hT (e : Color) : T e = e.truncated := unpack3_pack3 e
  refine ⟨congrArg unpack3 (pack3_unpack3 _), ?_, unpack3_injective.eq_iff.symm⟩
  rw [hT]
  exact c.truncated_eq_self_iff

end Sys2Proof.Machine
end

section
/-! The coordinate rotator (41_rotator). Each mapping is the one before it after a quarter turn (R85), and has its
inverse in `cellOfRecord` (R84), so it is one to one onto the 64 records (R83). BOFF answers a pixel and a rotation that
pass its checks with their offset, and BOFFR is BOFF with the degrees of ROT (R79, R80). -/

namespace Sys2Proof.Machine

/-! ### The four mappings (41_rotator R77) -/

section
variable {x y : Nat}

/-- One quarter turn takes (x, y) to (7 − y, x), and each mapping to the next. -/
theorem idx_r90_eq_turn (x y : Nat) : idx x y .r90 = idx (7 - y) x .r0 := rfl

theorem idx_r180_eq_turn (x y : Nat) : idx x y .r180 = idx (7 - y) x .r90 := rfl

theorem idx_r270_eq_turn (x : Nat) (hy : y ≤ 7) : idx x y .r270 = idx (7 - y) x .r180 := by
  rw [idx, idx, Nat.sub_sub_self hy]

theorem idx_r180_eq_sub (hx : x ≤ 7) (hy : y ≤ 7) : idx x y .r180 = 63 - idx x y .r0 := by
  simp only [idx]
  omega

/-- The opposite of a quarter turn, by the opposite of no turn at the turned pixel. -/
theorem idx_r270_eq_sub (hx : x ≤ 7) (hy : y ≤ 7) : idx x y .r270 = 63 - idx x y .r90 := by
  rw [idx_r270_eq_turn x hy, idx_r180_eq_sub (Nat.sub_le 7 y) hx, idx_r90_eq_turn]

/-- Settles O20: each mapping is the one before it after one turn, and four turns reverse each coordinate twice. -/
theorem mappingsAreQuarterTurns : Obligations.MappingsAreQuarterTurns := by
  intro x y hx hy
  have hhalf := idx_r180_eq_sub hx hy
  have hthree := idx_r270_eq_sub hx hy
  have hfour : (7 - (7 - x), 7 - (7 - y)) = (x, y) := Prod.ext (Nat.sub_sub_self hx) (Nat.sub_sub_self hy)
  refine ⟨idx_r90_eq_turn x y, idx_r180_eq_turn x y, idx_r270_eq_turn x hy, hfour, hhalf, hthree, ?_, ?_⟩
  · rw [byteOffset, byteOffset, hhalf]
    exact Nat.mul_sub 2 63 _
  · rw [byteOffset, byteOffset, hthree]
    exact Nat.mul_sub 2 63 _

/-! ### The inverse mapping (41_rotator R83, R84) -/

theorem cellOfRecord_le {i : Nat} (h : i < 64) (rot : Rotation) :
    (cellOfRecord i rot).1 ≤ 7 ∧ (cellOfRecord i rot).2 ≤ 7 := by
  cases rot <;> simp only [cellOfRecord] <;> omega

theorem idx_cellOfRecord {i : Nat} (h : i < 64) (rot : Rotation) :
    idx (cellOfRecord i rot).1 (cellOfRecord i rot).2 rot = i := by
  cases rot <;> simp only [cellOfRecord, idx] <;> omega

theorem cellOfRecord_idx (hx : x ≤ 7) (hy : y ≤ 7) (rot : Rotation) : cellOfRecord (idx x y rot) rot = (x, y) := by
  cases rot <;> simp only [cellOfRecord, idx, Prod.mk.injEq] <;> omega

/-- Settles O19: each composition is the identity, and the pixel found is on the grid. -/
theorem inverseMappingInverts : Obligations.InverseMappingInverts := fun rot =>
  ⟨fun _ hi => ⟨(cellOfRecord_le hi rot).1, (cellOfRecord_le hi rot).2, idx_cellOfRecord hi rot⟩,
    fun _ _ hx hy => cellOfRecord_idx hx hy rot⟩

theorem byteOffset_le (hx : x ≤ 7) (hy : y ≤ 7) (rot : Rotation) : byteOffset x y rot ≤ 126 := by
  have hidx := idx_lt hx hy rot
  rw [byteOffset]
  omega

/-- Settles O18: the pixel of an even offset is the one that the inverse mapping gives for half of it. -/
theorem offsetsAreABijection : Obligations.OffsetsAreABijection := by
  refine fun rot => ⟨fun x y hx hy => ⟨Nat.mul_mod_right 2 _, byteOffset_le hx hy rot⟩, fun off heven hoff => ?_⟩
  have hrecord : off / 2 < 64 := by omega
  obtain ⟨hx, hy⟩ := cellOfRecord_le hrecord rot
  refine ⟨cellOfRecord (off / 2) rot, ⟨hx, hy, ?_⟩, ?_⟩
  · rw [byteOffset, idx_cellOfRecord hrecord]
    omega
  · rintro ⟨x, y⟩ ⟨hx, hy, hoffset⟩
    have hidx : idx x y rot = off / 2 := Nat.eq_div_of_mul_eq_right two_ne_zero hoffset
    rw [← hidx, cellOfRecord_idx hx hy]

end

/-! ### Operands and results (30_encoding R53, R54, R58) -/

theorem coordinateOk_iff {v : Int} : coordinateOk v = true ↔ 0 ≤ v ∧ v ≤ 7 := by
  rw [coordinateOk, Bool.and_eq_true, decide_eq_true_iff, decide_eq_true_iff]
  rfl

/-- The check of a pair of coordinates, as the commands make it (30_encoding R53). -/
theorem coordinatesOk_iff {x y : Int} :
    (coordinateOk x && coordinateOk y) = true ↔ (0 ≤ x ∧ x ≤ 7) ∧ (0 ≤ y ∧ y ≤ 7) := by
  rw [Bool.and_eq_true, coordinateOk_iff, coordinateOk_iff]

theorem coordinatesOk_natCast {x y : Nat} (hx : x ≤ 7) (hy : y ≤ 7) :
    (coordinateOk x && coordinateOk y) = true :=
  coordinatesOk_iff.2 (by omega)

theorem coordinatesOk_eq_false {x y : Int} (h : x < 0 ∨ 7 < x ∨ y < 0 ∨ 7 < y) :
    (coordinateOk x && coordinateOk y) = false :=
  Bool.eq_false_iff.2 fun hok => by
    have hrange := coordinatesOk_iff.1 hok
    omega

/-- The operand that names a rotation is its number of degrees (10_state R18). -/
theorem Rotation.ofDegrees_degrees (r : Rotation) : Rotation.ofDegrees r.degrees.toNat = some r := by
  cases r <;> rfl

theorem Rotation.ofDegrees_eq_none {v : Int} (h0 : v ≠ 0) (h90 : v ≠ 90) (h180 : v ≠ 180) (h270 : v ≠ 270) :
    Rotation.ofDegrees v = none := by
  rw [Rotation.ofDegrees, if_neg h0, if_neg h90, if_neg h180, if_neg h270]

theorem errorWord_invalidCoordinate : errorWord .invalidCoordinate = 0x2000_0000 := rfl

theorem errorWord_invalidRotation : errorWord .invalidRotation = 0x3000_0000 := rfl

/-- An offset that fits its result is the response as a number (30_encoding R58). -/
theorem okWord_offsetRes {n : Nat} (h : n ≤ 126) : okWord (offsetRes n) = BitVec.ofNat 32 n := by
  have hres : n % 2 ^ 24 = n := by omega
  have hword : n % 2 ^ 32 = n := by omega
  apply BitVec.eq_of_toNat_eq
  simp only [okWord_eq, BitVec.toNat_append, offsetRes, BitVec.toNat_ofNat, hres, hword]
  exact Nat.zero_or n

/-! ### BOFF and BOFFR (41_rotator R79, R80) -/

section
variable {rot : Int} (s : State)

/-- BOFF answers a pixel of the grid and a legal rotation with their offset. -/
theorem exec_boff_natCast {x y : Nat} {r : Rotation} (hx : x ≤ 7) (hy : y ≤ 7)
    (hrot : Rotation.ofDegrees rot = some r) :
    exec (.boff x y rot) s = .next { s with rsp := some (BitVec.ofNat 32 (byteOffset x y r)) } := by
  rw [← okWord_offsetRes (byteOffset_le hx hy r)]
  simp only [exec, execBoff, boffCheck, coordinatesOk_natCast hx hy, hrot, Int.toNat_natCast]
  rfl

/-- BOFF reports a bad coordinate where the rotation is legal, or the coordinate is checked first (60_exceptions
R117). -/
theorem exec_boff_invalidCoordinate {x y : Int} (hxy : x < 0 ∨ 7 < x ∨ y < 0 ∨ 7 < y)
    (h : (∃ r, Rotation.ofDegrees rot = some r) ∨ s.params.boffCoordinateFirst = true) :
    exec (.boff x y rot) s = .next { s with rsp := some 0x2000_0000 } := by
  have hcheck : boffCheck s.params.boffCoordinateFirst x y rot = .error .invalidCoordinate := by
    rw [boffCheck, coordinatesOk_eq_false hxy]
    obtain ⟨r, hrot⟩ | hfirst := h
    · rw [hrot]
    · rw [hfirst]
      cases Rotation.ofDegrees rot <;> rfl
  rw [exec, execBoff, hcheck, ← errorWord_invalidCoordinate]
  rfl

theorem exec_boff_invalidRotation {x y : Int} (hxy : (coordinateOk x && coordinateOk y) = true)
    (hrot : Rotation.ofDegrees rot = none) :
    exec (.boff x y rot) s = .next { s with rsp := some 0x3000_0000 } := by
  rw [exec, execBoff, boffCheck, hxy, hrot, ← errorWord_invalidRotation]
  rfl

end

/-- Settles O13: both checks pass with each of the four rotations, the coordinate fails, or the rotation alone does. -/
theorem boffMeaning : Obligations.BoffMeaning := by
  refine ⟨decode_boffWord, fun x y s hx hy => ?_, fun x y rot s hxy hfirst => ?_,
    fun x y rot s hx hx' hy hy' h0 h90 h180 h270 => ?_⟩
  · exact ⟨exec_boff_natCast s hx hy (r := .r0) rfl, exec_boff_natCast s hx hy (r := .r90) rfl,
      exec_boff_natCast s hx hy (r := .r180) rfl, exec_boff_natCast s hx hy (r := .r270) rfl⟩
  · exact exec_boff_invalidCoordinate s hxy (.inr hfirst)
  · exact exec_boff_invalidRotation s (coordinatesOk_iff.2 ⟨⟨hx, hx'⟩, hy, hy'⟩)
      (Rotation.ofDegrees_eq_none h0 h90 h180 h270)

/-- Settles O15: BOFFR is BOFF with the degrees of ROT, which are a legal operand, so BOFF's answers are its own. -/
theorem boffrMeaning : Obligations.BoffrMeaning := by
  have hboff (x y : Int) (s : State) : exec (.boffr x y) s = exec (.boff x y s.rot.degrees.toNat) s :=
    exec_boffr_eq_boff x y s.rot.ofDegrees_degrees
  refine ⟨decode_boffrWord, fun a b c hc => ?_, fun x y s hx hy => ?_, fun x y s hxy => ?_, hboff⟩
  · refine decode_unusedSlot (m := .BOFFR) (opcField_commandWord _ a b c) (rsvField_commandWord _ a b c) fun hzero => ?_
    exact hc ((slotC_commandWord _ a b c).symm.trans hzero)
  · rw [hboff, exec_boff_natCast s hx hy s.rot.ofDegrees_degrees]
    cases s.rot <;> rfl
  · rw [hboff, exec_boff_invalidCoordinate s hxy (.inl ⟨_, s.rot.ofDegrees_degrees⟩)]

/-! ### SETROT and GETROT (41_rotator R81, R82) -/

/-- SETROT writes the rotation that its operand names. -/
theorem exec_setrot_legal {v : Int} {r : Rotation} (h : Rotation.ofDegrees v = some r) (s : State) :
    exec (.setrot v) s = .next { s with rot := r, rsp := some 0 } := by
  rw [exec, execSetrot, h]
  rfl

theorem exec_setrot_invalidRotation {v : Int} (h : Rotation.ofDegrees v = none) (s : State) :
    exec (.setrot v) s = .next { s with rsp := some 0x3000_0000 } := by
  rw [exec, execSetrot, h, ← errorWord_invalidRotation]
  rfl

/-- Settles O16: the operand names one of the four rotations or none. -/
theorem setrotMeaning : Obligations.SetrotMeaning :=
  ⟨decode_setrotWord,
    fun s => ⟨exec_setrot_legal rfl s, exec_setrot_legal rfl s, exec_setrot_legal rfl s, exec_setrot_legal rfl s⟩,
    fun _ s h0 h90 h180 h270 => exec_setrot_invalidRotation (Rotation.ofDegrees_eq_none h0 h90 h180 h270) s⟩

theorem exec_getrot (s : State) : exec .getrot s = .next { s with rsp := some (okWord (rotationRes s.rot)) } := rfl

/-- GETROT's row fixes every bit of its word (30_encoding R60). -/
theorem accepts_getrot_iff {w : Cmd} : Mnemonic.GETROT.accepts w = true ↔ w = 0x0600_0000_0000_0000 := by
  have hmask : w &&& Mnemonic.GETROT.maskBits = w := BitVec.and_allOnes
  rw [Mnemonic.accepts, beq_iff_eq, hmask]
  rfl

/-- Settles O17: the one word that GETROT's row accepts is the command, and the answer holds the degrees of ROT. -/
theorem getrotMeaning : Obligations.GetrotMeaning := by
  refine ⟨decode_getrotWord, fun w hopc hne => ?_, fun s => ?_⟩
  · exact ⟨_, decode_of_not_accepts (m := .GETROT) hopc (mt accepts_getrot_iff.1 hne)⟩
  · rw [exec_getrot]
    cases s.rot <;> rfl

end Sys2Proof.Machine
end

section
/-! Runs of a host sequence, told apart from the outputs of their last step. `s.facing ops` has the steps `ops` before
the host; `Performs ops s t` says that the host performs `ops` and what it has done then; `EndsIn n s r t` that the
sequence ends after `n` steps with the report `r`. -/

namespace Sys2Proof.Machine

/-! ### Leading to a state, and ending -/

/-- `n` steps lead from `s` to `t`, but for the outputs of the last of them. -/
def Leads (n : Nat) (s t : State) : Prop := ∃ u, s.after n = .next u ∧ quiet u = quiet t

/-- After `n` steps from `s` the sequence in progress has just ended with the report `r`, in the state `t` but for the
sequence itself and the response of the last command. -/
def EndsIn (n : Nat) (s : State) (r : Report) (t : State) : Prop :=
  0 < n ∧ ∃ v, s.after n = .next (finish r (t.setRsp v))

section
variable {s t u : State} {r : Report} {m n : Nat}

/-- A run does not depend on the outputs of the step before it. -/
theorem State.after_congr (h : quiet s = quiet t) (n : Nat) : s.after (n + 1) = t.after (n + 1) := by
  have hstep : Sys2Proof.core.step s = Sys2Proof.core.step t := congrArg agentStep h
  simp only [State.after, Host.Core.run]
  rw [hstep]

theorem Leads.refl (s : State) : Leads 0 s s := ⟨s, rfl, rfl⟩

theorem leads_one (h : step s = .next u) (hu : quiet u = quiet t) : Leads 1 s t :=
  ⟨u, (State.after_succ h 0).trans (State.after_zero u), hu⟩

theorem Leads.trans (h : Leads m s t) (h' : Leads n t u) : Leads (m + n) s u := by
  obtain ⟨t', hrun, ht⟩ := h
  obtain ⟨u', hrun', hu⟩ := h'
  cases n with
  | zero =>
    cases hrun'
    exact ⟨t', hrun, ht.trans hu⟩
  | succ n => exact ⟨u', (State.after_add hrun _).trans ((State.after_congr ht n).trans hrun'), hu⟩

theorem Leads.endsIn (h : Leads m s t) (h' : EndsIn n t r u) : EndsIn (m + n) s r u := by
  obtain ⟨t', hrun, ht⟩ := h
  obtain ⟨hpos, v, hrun'⟩ := h'
  cases n with
  | zero => exact absurd hpos (Nat.lt_irrefl 0)
  | succ n => exact ⟨Nat.succ_pos _, v, (State.after_add hrun _).trans ((State.after_congr ht n).trans hrun')⟩

theorem endsIn_one {v : Option Rsp} (h : step s = .next (finish r (t.setRsp v))) : EndsIn 1 s r t :=
  ⟨Nat.one_pos, v, (State.after_succ h 0).trans (State.after_zero _)⟩

/-- Where a sequence has ended, the host goes on from there. -/
theorem EndsIn.leads (h : EndsIn n s r t) : Leads n s (finish r t) := by
  obtain ⟨-, v, hrun⟩ := h
  exact ⟨_, hrun, rfl⟩

end

/-! ### Steps of a sequence -/

/-- The state `s` with the steps `ops` before the host and no outputs. -/
def State.facing (s : State) (ops : List MicroOp) : State := (quiet s).setTodo ops

/-- The state `s` as a sequence finds it: nothing is held yet, and `more` is left of the host's list. -/
def State.fresh (s : State) (more : List Request) : State := (s.setProgram more).setScratch Scratch.empty

/-- From `s`, without external writers, the host performs the steps `ops`, and has then come to `t`. -/
def Performs (ops : List MicroOp) (s t : State) : Prop :=
  s.NoExternalWriter →
    t.NoExternalWriter ∧ ∀ rest, Leads ops.length (s.facing (ops ++ rest)) (t.facing rest)

section
variable {s t u : State} {m : MicroOp} {ops ops' rest : List MicroOp} {r : Report} {n : Nat}

/-- With no external write due the host takes the next step of the sequence in progress. -/
theorem step_micro (hext : s.NoExternalWriter) (htodo : s.todo = m :: rest) :
    step s = microStep m (s.facing rest) :=
  (agentStep_host (s := quiet s) hext.none_due).trans (hostStep_micro (s := quiet s) htodo)

theorem step_facing (hext : s.NoExternalWriter) (m : MicroOp) (rest : List MicroOp) :
    step (s.facing (m :: rest)) = microStep m (s.facing rest) :=
  step_micro (s := s.facing (m :: rest)) hext rfl

theorem Performs.nil (s : State) : Performs [] s s := fun hext => ⟨hext, fun _ => Leads.refl _⟩

theorem Performs.append (h : Performs ops s t) (h' : Performs ops' t u) : Performs (ops ++ ops') s u := by
  intro hext
  obtain ⟨hext', hlead⟩ := h hext
  obtain ⟨hext'', hlead'⟩ := h' hext'
  refine ⟨hext'', fun rest => ?_⟩
  rw [List.length_append, List.append_assoc]
  exact (hlead _).trans (hlead' rest)

theorem Performs.cons (h : Performs [m] s t) (h' : Performs ops t u) : Performs (m :: ops) s u := h.append h'

/-- A step that goes on is performed. -/
theorem performs_one (hext : s.NoExternalWriter → t.NoExternalWriter)
    (h : ∀ rest, ∃ u, microStep m (s.facing rest) = .next u ∧ quiet u = t.facing rest) : Performs [m] s t := by
  refine fun hs => ⟨hext hs, fun rest => ?_⟩
  obtain ⟨u, hstep, hu⟩ := h rest
  exact leads_one ((step_facing hs m rest).trans hstep) hu

/-- What is performed comes before what ends the sequence. -/
theorem Performs.endsIn (h : Performs ops s t) (hext : s.NoExternalWriter)
    (h' : t.NoExternalWriter → EndsIn n (t.facing rest) r u) : EndsIn (ops.length + n) (s.facing (ops ++ rest)) r u :=
  have ⟨hext', hlead⟩ := h hext
  (hlead rest).endsIn (h' hext')

/-- A step that ends the sequence. -/
theorem endsIn_micro (hext : s.NoExternalWriter) {v : Option Rsp}
    (h : microStep m (s.facing rest) = .next (finish r (t.setRsp v))) : EndsIn 1 (s.facing (m :: rest)) r t :=
  endsIn_one ((step_facing hext m rest).trans h)

theorem endsIn_done (hext : s.NoExternalWriter) (r : Return) (rest : List MicroOp) :
    EndsIn 1 (s.facing (.done r :: rest)) (resultOf s r) s :=
  endsIn_micro (v := none) hext (by cases r <;> rfl)

end

/-! ### Whole sequences -/

section
variable {s t : State} {op : HostOp} {more : List Request} {r : Report} {n : Nat}

/-- Taking a sequence up is one step (log entry 15). -/
theorem step_begin (htodo : s.todo = []) (hprog : s.program = .sequence op :: more) (hext : s.NoExternalWriter) :
    step s = .next ((s.fresh more).facing (expand s.params op)) :=
  (agentStep_host (s := quiet s) hext.none_due).trans (hostStep_sequence (s := quiet s) htodo hprog)

theorem endsIn_sequence (htodo : s.todo = []) (hprog : s.program = .sequence op :: more) (hext : s.NoExternalWriter)
    (h : EndsIn n ((s.fresh more).facing (expand s.params op)) r t) : EndsIn (1 + n) s r t :=
  (leads_one (step_begin htodo hprog hext) rfl).endsIn h

/-- A sequence whose steps are all performed returns to its caller. -/
theorem Performs.sequence {ops : List MicroOp} {ret : Return} (h : Performs ops (s.fresh more) t)
    (htodo : s.todo = []) (hprog : s.program = .sequence op :: more) (hext : s.NoExternalWriter)
    (hops : expand s.params op = ops ++ [.done ret]) :
    EndsIn (1 + (ops.length + 1)) s (resultOf t ret) t := by
  refine endsIn_sequence htodo hprog hext ?_
  rw [hops]
  exact h.endsIn hext fun hext' => endsIn_done hext' ret []

end

end Sys2Proof.Machine
end

section
/-! The steps of a sequence, one rule each: what the step does when the block and the device serve it, and how it ends
the sequence when it is rejected or the device fails. The rules of the micro-steps come first, then the same as steps
performed. -/

namespace Sys2Proof.Machine

/-! ### What a caller gives (60_exceptions R108, R109) -/

/-- A colour that PACK takes: three channels in range. -/
def RawColor.Valid (c : RawColor) : Prop := ∃ d : Nat × Nat × Nat, ValidChannels d ∧ c = rawOf d

/-- A pair of coordinates that BOFFR takes. -/
def CoordinatesValid (x y : Arg) : Prop := ∃ u v : Nat, u ≤ 7 ∧ v ≤ 7 ∧ x = .int u ∧ y = .int v

theorem slotFits_of_le {v : Int} (hlow : 0 ≤ v) (hhigh : v ≤ 255) : slotFits v = true := by
  rw [slotFits, Bool.and_eq_true, decide_eq_true_iff, decide_eq_true_iff]
  omega

theorem Arg.presentable_int {v : Int} (hlow : 0 ≤ v) (hhigh : v ≤ 255) : (Arg.int v).presentable = some v :=
  if_pos (slotFits_of_le hlow hhigh)

theorem RawColor.presentable_rawOf {c : Nat × Nat × Nat} (h : ValidChannels c) :
    RawColor.presentable (rawOf c) = some ((c.1 : Int), (c.2.1 : Int), (c.2.2 : Int)) := by
  obtain ⟨hr, hg, hb⟩ := h
  have hpres {n : Nat} (hn : n ≤ 255) : (Arg.int n).presentable = some (n : Int) :=
    Arg.presentable_int (by omega) (by omega)
  simp only [rawOf, RawColor.presentable, hpres hr, hpres hg, hpres hb]

/-- A colour that is presented is three integers. -/
theorem RawColor.eq_of_presentable {c : RawColor} {r g b : Int} (h : RawColor.presentable c = some (r, g, b)) :
    c = [.int r, .int g, .int b] := by
  unfold RawColor.presentable at h
  split at h
  case h_1 =>
    split at h
    case h_1 hr hg hb =>
      cases h
      rw [(Arg.presentable_eq_some hr).1, (Arg.presentable_eq_some hg).1, (Arg.presentable_eq_some hb).1]
    case h_2 => cases h
  case h_2 => cases h

/-- A colour that was unpacked is valid. -/
theorem Color.toRaw_eq (c : Color) : c.toRaw = rawOf (c.r.toNat, c.g.toNat, c.b.toNat) := rfl

theorem Color.validChannels (c : Color) : ValidChannels (c.r.toNat, c.g.toNat, c.b.toNat) :=
  ⟨Nat.le_of_lt_succ c.r.isLt, Nat.le_of_lt_succ c.g.isLt, Nat.le_of_lt_succ c.b.isLt⟩

/-- A legal rotation fits its slot. -/
theorem Rotation.presentable_of_ofDegrees {v : Int} {r : Rotation} (h : Rotation.ofDegrees v = some r) :
    (Arg.int v).presentable = some v := by
  have hv : v = 0 ∨ v = 90 ∨ v = 180 ∨ v = 270 := by
    by_contra hne
    simp only [not_or] at hne
    obtain ⟨h0, h90, h180, h270⟩ := hne
    rw [Rotation.ofDegrees_eq_none h0 h90 h180 h270] at h
    cases h
  obtain rfl | rfl | rfl | rfl := hv <;> rfl

theorem Arg.rotation_ne_none {v : Int} {r : Rotation} (h : Rotation.ofDegrees v = some r) :
    (Arg.int v).rotation ≠ none :=
  Option.ne_none_iff_exists'.2 ⟨r, h⟩

/-! ### Commands of a sequence -/

section
variable {i : Instr} {use : Res → State → State} {s t : State}

/-- The host uses the result of a command that answers OK. -/
theorem issue_of_respond (hwf : i.wellFormed = true) {res : Res} (h : exec i s = respond res t) :
    issue i use s = .next (use res (t.setRsp (some (okWord res)))) :=
  issue_ok (((command_encode hwf s).trans h).trans (respond_eq res t)) rfl

/-- An error that the block raises ends the sequence. -/
theorem issue_of_raise (hwf : i.wellFormed = true) {e : ErrorKind} (h : exec i s = raise e s) :
    issue i use s = .next (stop e (s.setRsp (some (errorWord e)))) :=
  issue_error (((command_encode hwf s).trans h).trans (raise_eq e s)) rfl

end

theorem microBoffr_valid {x y : Nat} (hx : x ≤ 7) (hy : y ≤ 7) (s : State) :
    microBoffr (.int x) (.int y) s = .next (keepOffset (offsetRes (byteOffset x y s.rot))
      (s.setRsp (some (okWord (offsetRes (byteOffset x y s.rot)))))) := by
  have hpres {n : Nat} (hn : n ≤ 7) : (Arg.int n).presentable = some (n : Int) :=
    Arg.presentable_int (by omega) (by omega)
  have hwf : (Instr.boffr x y).wellFormed = true := by
    rw [Instr.wellFormed, slotFits_of_le (by omega) (by omega), slotFits_of_le (by omega) (by omega)]
    rfl
  simp only [microBoffr, hpres hx, hpres hy]
  exact issue_of_respond hwf (if_pos (coordinatesOk_natCast hx hy))

theorem microBoffr_invalid {x y : Arg} (h : ¬CoordinatesValid x y) (s : State) :
    ∃ v, microBoffr x y s = .next (stop .invalidCoordinate (s.setRsp v)) := by
  unfold microBoffr
  split
  case h_1 u v hx hy =>
    obtain ⟨rfl, hu⟩ := Arg.presentable_eq_some hx
    obtain ⟨rfl, hv⟩ := Arg.presentable_eq_some hy
    have hbad : ¬(coordinateOk u && coordinateOk v) = true := fun hok => by
      obtain ⟨⟨hu0, hu7⟩, hv0, hv7⟩ := coordinatesOk_iff.1 hok
      exact h ⟨u.toNat, v.toNat, by omega, by omega, by rw [Int.toNat_of_nonneg hu0], by rw [Int.toNat_of_nonneg hv0]⟩
    exact ⟨_, issue_of_raise (i := .boffr u v) (Bool.and_eq_true_iff.2 ⟨hu, hv⟩) (if_neg hbad)⟩
  case h_2 => exact ⟨s.rsp, rfl⟩

section
variable {source : ColorSource} {s : State}

theorem microPack_valid {c : Nat × Nat × Nat} (hc : ValidChannels c) (hsource : sourceColor s source = rawOf c)
    (k : Fin 64) : microPack source k s =
      .next (keepPack k (pixelRes (packOf c)) (s.setRsp (some (okWord (pixelRes (packOf c)))))) := by
  have hpres := RawColor.presentable_rawOf hc
  have hwf : (Instr.pack c.1 c.2.1 c.2.2).wellFormed = true := RawColor.pack_wellFormed hpres
  obtain ⟨hr, hg, hb⟩ := hc
  have hok : (channelOk c.1 && channelOk c.2.1 && channelOk c.2.2) = true := by
    simp only [Bool.and_eq_true, channelOk_iff]
    omega
  simp only [microPack, hsource, hpres]
  exact issue_of_respond hwf (if_pos hok)

theorem microPack_invalid (h : ¬(sourceColor s source).Valid) (k : Fin 64) :
    ∃ v, microPack source k s = .next (stop .invalidColor (s.setRsp v)) := by
  unfold microPack
  split
  case h_1 r g b hc =>
    have hbad : ¬(channelOk r && channelOk g && channelOk b) = true := fun hok => by
      simp only [Bool.and_eq_true, channelOk_iff] at hok
      obtain ⟨⟨⟨hr, hr'⟩, hg, hg'⟩, hb, hb'⟩ := hok
      refine h ⟨(r.toNat, g.toNat, b.toNat), ⟨Int.toNat_le.2 hr', Int.toNat_le.2 hg', Int.toNat_le.2 hb'⟩, ?_⟩
      rw [RawColor.eq_of_presentable hc, rawOf, Int.toNat_of_nonneg hr, Int.toNat_of_nonneg hg, Int.toNat_of_nonneg hb]
    exact ⟨_, issue_of_raise (i := .pack r g b) (RawColor.pack_wellFormed hc) (if_neg hbad)⟩
  case h_2 => exact ⟨s.rsp, rfl⟩

theorem microUnpack_record {p : Pixel} (h : bufRecord s.scratch.buf s.scratch.off = some p) (k : Fin 64) :
    microUnpack k s = .next (keepColor k (colorRes (unpack3 p)) (s.setRsp (some (okWord (colorRes (unpack3 p)))))) := by
  simp only [microUnpack, h]
  exact issue_of_respond (i := .unpack p) rfl rfl

end

theorem microSetrot_legal {v : Int} {r : Rotation} (h : Rotation.ofDegrees v = some r) (s : State) :
    microSetrot (.int v) s = .next ((s.setRot r).setRsp (some (okWord 0))) := by
  have hpres := Rotation.presentable_of_ofDegrees h
  have hexec : exec (.setrot v) s = respond 0 (s.setRot r) := by simp only [exec, execSetrot, h]
  simp only [microSetrot, hpres]
  exact issue_of_respond (i := .setrot v) (Arg.presentable_eq_some hpres).2 hexec

theorem issue_getrot (s : State) : issue .getrot keepDegrees s =
    .next (keepDegrees (rotationRes s.rot) (s.setRsp (some (okWord (rotationRes s.rot))))) :=
  issue_of_respond (i := .getrot) rfl rfl

/-! ### Port operations with an outcome from the script -/

section
variable {s : State} {off : Nat} {rest : List EnvEvent} {landed : BitVec 128}

theorem portWriteRecord_served (p : Pixel) (hoff : recordOffsetOk off = true) (h : s.env = .port .ok :: rest) :
    portWriteRecord off p s = .next ((s.setEnv rest).setMem (memWrite s.mem off Config.recordBytes p.toNat)) := by
  simp [portWriteRecord, hoff, takeOutcome_script h]

theorem portWriteRecord_unavailable (p : Pixel) (hoff : recordOffsetOk off = true)
    (h : s.env = .port (.unavailable landed) :: rest) :
    portWriteRecord off p s = .next (stop .deviceUnavailable (s.setEnv rest)) := by
  simp [portWriteRecord, hoff, takeOutcome_script h]

theorem portReadAll_served {buf : Vector Byte 128} (hbuf : readFrame s.mem = buf) (h : s.env = .port .ok :: rest) :
    portReadAll s = .next ((s.setEnv rest).setScratch { s.scratch with buf := buf }) := by
  simp [portReadAll, takeOutcome_script h, hbuf]

theorem portReadAll_unavailable (h : s.env = .port (.unavailable landed) :: rest) :
    portReadAll s = .next (stop .deviceUnavailable (s.setEnv rest)) := by
  simp [portReadAll, takeOutcome_script h]

end

/-! ### The same as steps performed -/

section
variable {s : State}

theorem performs_boffr {x y : Nat} (hx : x ≤ 7) (hy : y ≤ 7) (s : State) :
    Performs [.boffr (.int x) (.int y)] s (keepOffset (offsetRes (byteOffset x y s.rot)) s) :=
  performs_one id fun _ => ⟨_, microBoffr_valid hx hy _, rfl⟩

theorem performs_pack {source : ColorSource} {c : Nat × Nat × Nat} (hc : ValidChannels c)
    (hsource : sourceColor s source = rawOf c) (k : Fin 64) :
    Performs [.pack source k] s (keepPack k (pixelRes (packOf c)) s) :=
  performs_one id fun rest => ⟨_, microPack_valid (s := s.facing rest) hc (by cases source <;> exact hsource) k, rfl⟩

theorem performs_unpack {p : Pixel} (h : bufRecord s.scratch.buf s.scratch.off = some p) (k : Fin 64) :
    Performs [.unpack k] s (keepColor k (colorRes (unpack3 p)) s) :=
  performs_one id fun rest => ⟨_, microUnpack_record (s := s.facing rest) h k, rfl⟩

theorem performs_checkRotation {r : Arg} (h : r.rotation ≠ none) (s : State) : Performs [.checkRotation r] s s := by
  refine performs_one id fun rest => ⟨s.facing rest, ?_, rfl⟩
  obtain ⟨rot, hrot⟩ := Option.ne_none_iff_exists'.1 h
  simp only [microStep, microCheckRotation, hrot]

theorem performs_setrot {v : Int} {r : Rotation} (h : Rotation.ofDegrees v = some r) (s : State) :
    Performs [.setrot (.int v)] s (s.setRot r) :=
  performs_one id fun _ => ⟨_, microSetrot_legal h _, rfl⟩

theorem performs_getrot (s : State) : Performs [.getrot] s (keepDegrees (rotationRes s.rot) s) :=
  performs_one id fun _ => ⟨_, issue_getrot _, rfl⟩

variable {rest : List EnvEvent}

theorem State.NoExternalWriter.tail {e : EnvEvent} (hext : s.NoExternalWriter) (h : s.env = e :: rest) :
    (s.setEnv rest).NoExternalWriter :=
  fun e' he => hext e' (h ▸ List.mem_cons_of_mem _ he)

theorem performs_writePack {k : Fin 64} (hoff : recordOffsetOk s.scratch.off.toNat = true)
    (h : s.env = .port .ok :: rest) : Performs [.writePack k] s ((s.setEnv rest).setMem
      (memWrite s.mem s.scratch.off.toNat Config.recordBytes s.scratch.packs[k].toNat)) :=
  performs_one (fun hext => hext.tail h) fun ops => ⟨_, portWriteRecord_served (s := s.facing ops) _ hoff h, rfl⟩

theorem performs_readAll {buf : Vector Byte 128} (hbuf : readFrame s.mem = buf) (h : s.env = .port .ok :: rest) :
    Performs [.readAll] s ((s.setEnv rest).setScratch { s.scratch with buf := buf }) :=
  performs_one (fun hext => hext.tail h) fun ops => ⟨_, portReadAll_served (s := s.facing ops) hbuf h, rfl⟩

end

/-! ### Steps that end a sequence -/

section
variable {s : State} (hext : s.NoExternalWriter) (rest : List MicroOp)
include hext

theorem endsIn_boffr {x y : Arg} (h : ¬CoordinatesValid x y) :
    EndsIn 1 (s.facing (.boffr x y :: rest)) (.error .invalidCoordinate) s :=
  have ⟨_, hv⟩ := microBoffr_invalid h (s.facing rest)
  endsIn_micro hext hv

theorem endsIn_pack {c : RawColor} (h : ¬c.Valid) (k : Fin 64) :
    EndsIn 1 (s.facing (.pack (.given c) k :: rest)) (.error .invalidColor) s :=
  have ⟨_, hv⟩ := microPack_invalid (source := .given c) (s := s.facing rest) h k
  endsIn_micro hext hv

theorem endsIn_checkRotation {r : Arg} (h : r.rotation = none) :
    EndsIn 1 (s.facing (.checkRotation r :: rest)) (.error .invalidRotation) s :=
  endsIn_micro (v := none) hext (by simp only [microStep, microCheckRotation, h]; rfl)

variable {events : List EnvEvent} {landed : BitVec 128} (henv : s.env = .port (.unavailable landed) :: events)
include henv

theorem endsIn_readAll :
    EndsIn 1 (s.facing (.readAll :: rest)) (.error .deviceUnavailable) (s.setEnv events) :=
  endsIn_micro (v := none) hext (portReadAll_unavailable (s := s.facing rest) henv)

theorem endsIn_writePack (hoff : recordOffsetOk s.scratch.off.toNat = true) (k : Fin 64) :
    EndsIn 1 (s.facing (.writePack k :: rest)) (.error .deviceUnavailable) (s.setEnv events) :=
  endsIn_micro (v := none) hext (portWriteRecord_unavailable (s := s.facing rest) _ hoff henv)

end

end Sys2Proof.Machine
end

section
/-! Sequences over the whole frame: reading it, packing the colours of its cells, and writing its records, in any order
of the cells. -/

namespace Sys2Proof.Machine

/-! ### The record of a cell -/

/-- The byte offset of the record that cell `k` has at a rotation (41_rotator R78). -/
def cellOffset (k : Fin 64) (rot : Rotation) : Nat := byteOffset (cellX k) (cellY k) rot

theorem cellX_le (k : Fin 64) : cellX k ≤ 7 := by
  simp only [cellX]
  omega

theorem cellY_le (k : Fin 64) : cellY k ≤ 7 := by
  simp only [cellY]
  omega

/-- Every pixel of the grid is a cell. -/
theorem exists_cell {x y : Nat} (hx : x ≤ 7) (hy : y ≤ 7) : ∃ k : Fin 64, cellX k = x ∧ cellY k = y :=
  ⟨⟨y * 8 + x, by omega⟩, by simp only [cellX]; omega, by simp only [cellY]; omega⟩

theorem cell_ext {j k : Fin 64} (hx : cellX j = cellX k) (hy : cellY j = cellY k) : j = k := by
  simp only [cellX, cellY] at hx hy
  omega

theorem cellOffset_even (k : Fin 64) (rot : Rotation) : cellOffset k rot % 2 = 0 := Nat.mul_mod_right 2 _

theorem cellOffset_le (k : Fin 64) (rot : Rotation) : cellOffset k rot ≤ 126 :=
  byteOffset_le (cellX_le k) (cellY_le k) rot

/-- At a rotation each cell has a record of its own (41_rotator R83). -/
theorem cellOffset_inj {j k : Fin 64} {rot : Rotation} : cellOffset j rot = cellOffset k rot ↔ j = k := by
  refine ⟨fun h => ?_, fun h => h ▸ rfl⟩
  have hidx : idx (cellX j) (cellY j) rot = idx (cellX k) (cellY k) rot := Nat.eq_of_mul_eq_mul_left Nat.two_pos h
  have hcell := congrArg (cellOfRecord · rot) hidx
  simp only [cellOfRecord_idx (cellX_le _) (cellY_le _), Prod.mk.injEq] at hcell
  exact cell_ext hcell.1 hcell.2

/-- The record of a cell after the record of one has been written. -/
theorem recordAt_memWrite_cell (m : Memory) (rot : Rotation) (k : Fin 64) (p : Pixel) (c : Fin 64) :
    recordAt (memWrite m (cellOffset k rot) Config.recordBytes p.toNat) (cellOffset c rot) =
      if c = k then p else recordAt m (cellOffset c rot) := by
  split
  case isTrue h => rw [h, recordAt_memWrite_same]
  case isFalse h =>
    exact recordAt_memWrite_other m p (cellOffset_even k rot) (cellOffset_even c rot) (mt cellOffset_inj.1 h)

/-- BOFFR of a cell leaves its offset in the scratch. -/
theorem keepOffset_cell (k : Fin 64) (rot : Rotation) (s : State) :
    (keepOffset (offsetRes (cellOffset k rot)) s).scratch.off.toNat = cellOffset k rot :=
  toNat_resOffset_offsetRes (by have := cellOffset_le k rot; omega)

theorem recordOffsetOk_cellOffset (k : Fin 64) (rot : Rotation) : recordOffsetOk (cellOffset k rot) = true :=
  recordOffsetOk_iff.2 ⟨cellOffset_even k rot, cellOffset_le k rot⟩

theorem performs_boffrCell (k : Fin 64) (s : State) :
    Performs [boffrCell k] s (keepOffset (offsetRes (cellOffset k s.rot)) s) :=
  performs_boffr (cellX_le k) (cellY_le k) s

/-- Each cell stands once in an order of the cells (45_host_sequences R96); `Params.wf` says so of `CELL_ORDER`. -/
abbrev IsCellOrder (order : List (Fin 64)) : Prop := order.length = 64 ∧ order.Nodup

theorem IsCellOrder.mem {order : List (Fin 64)} (h : IsCellOrder order) (k : Fin 64) : k ∈ order := by
  obtain ⟨hlen, hnodup⟩ := h
  have huniv : order.toFinset = Finset.univ :=
    Finset.eq_univ_of_card _ ((List.toFinset_card_of_nodup hnodup).trans hlen)
  exact List.mem_toFinset.1 (huniv ▸ Finset.mem_univ k)

theorem mem_rowMajor (k : Fin 64) : k ∈ Config.rowMajor := List.mem_finRange k

@[simp] theorem length_rowMajor : Config.rowMajor.length = 64 := List.length_finRange

/-! ### One cell after the other -/

theorem getElem_set_cell {α : Type} (v : Vector α 64) (k c : Fin 64) (x : α) :
    (v.set k x)[c] = if c = k then x else v[c] := by
  simp only [Fin.getElem_fin, Vector.getElem_set, Fin.ext_iff, eq_comm]

/-- Where cell `k` is set before the cells of a list, the cells of the longer list are set. -/
theorem ite_mem_cons {α : Type} {k : Fin 64} {cells : List (Fin 64)} {c : Fin 64} (new : Fin 64 → α) (old : α) :
    (if c ∈ cells then new c else if c = k then new k else old) = if c ∈ k :: cells then new c else old := by
  by_cases hck : c = k
  · subst hck
    simp
  · simp [hck]

/-! ### Reading the frame -/

/-- The record at the offset in use, of a buffer that has been copied. -/
theorem bufRecord_copy {sc : Scratch} {m : Memory} {off : Nat} (hbuf : sc.buf = readFrame m)
    (hoff : sc.off.toNat = off) (heven : off % 2 = 0) : bufRecord sc.buf sc.off = some (recordAt m off) := by
  subst hoff
  rw [hbuf, bufRecord_readFrame m _ heven]

/-- BOFFR and UNPACK of a list of cells give each its Color, from the copy of the buffer `m`. -/
theorem performs_unpacks (m : Memory) (cells : List (Fin 64)) {s : State} (hbuf : s.scratch.buf = readFrame m) :
    ∃ sc, Performs (cells.flatMap fun k => [boffrCell k, .unpack k]) s (s.setScratch sc) ∧
      ∀ c : Fin 64, sc.frame[c] =
        if c ∈ cells then unpack3 (recordAt m (cellOffset c s.rot)) else s.scratch.frame[c] := by
  induction cells generalizing s with
  | nil => exact ⟨s.scratch, .nil s, by simp⟩
  | cons k cells ih =>
    have hrec := bufRecord_copy (sc := (keepOffset (offsetRes (cellOffset k s.rot)) s).scratch) hbuf
      (keepOffset_cell k s.rot s) (cellOffset_even k s.rot)
    obtain ⟨sc, hperf, hframe⟩ := ih (s := keepColor k (colorRes (unpack3 (recordAt m (cellOffset k s.rot))))
      (keepOffset (offsetRes (cellOffset k s.rot)) s)) hbuf
    refine ⟨sc, (performs_boffrCell k s).cons ((performs_unpack hrec k).cons hperf), fun c => ?_⟩
    rw [hframe]
    simp only [keepColor, keepOffset, State.setScratch_scratch, State.setScratch_rot, getElem_set_cell,
      resColor_colorRes]
    exact ite_mem_cons (fun c => unpack3 (recordAt m (cellOffset c s.rot))) _

/-- After a READALL the Frame of all cells is read, at the rotation of the moment (45_host_sequences R95). -/
theorem performs_readFrame {s : State} {rest : List EnvEvent} (henv : s.env = .port .ok :: rest) :
    ∃ sc, Performs readFrameOps s ((s.setEnv rest).setScratch sc) ∧
      ∀ c : Fin 64, sc.frame[c] = unpack3 (recordAt s.mem (cellOffset c s.rot)) := by
  obtain ⟨buf, hbuf⟩ : ∃ buf, readFrame s.mem = buf := ⟨_, rfl⟩
  obtain ⟨sc, hperf, hframe⟩ := performs_unpacks s.mem Config.rowMajor
    (s := (s.setEnv rest).setScratch { s.scratch with buf := buf }) hbuf.symm
  exact ⟨sc, (performs_readAll hbuf henv).cons hperf, fun c => (hframe c).trans (if_pos (mem_rowMajor c))⟩

theorem length_readFrameOps : readFrameOps.length = 129 := by
  simp [readFrameOps, List.length_flatMap]

/-! ### Packing the colours of the cells -/

/-- PACK of a list of cells whose colours are valid gives each its word. -/
theorem performs_packs {source : Fin 64 → ColorSource} {colour : Fin 64 → Nat × Nat × Nat} (cells : List (Fin 64))
    {s : State} (hvalid : ∀ k, ValidChannels (colour k)) (hsource : ∀ k, sourceColor s (source k) = rawOf (colour k)) :
    ∃ sc, Performs (cells.map fun k => .pack (source k) k) s (s.setScratch sc) ∧
      ∀ c : Fin 64, sc.packs[c] = if c ∈ cells then packOf (colour c) else s.scratch.packs[c] := by
  induction cells generalizing s with
  | nil => exact ⟨s.scratch, .nil s, by simp⟩
  | cons k cells ih =>
    have hsource' (j : Fin 64) : sourceColor (keepPack k (pixelRes (packOf (colour k))) s) (source j) =
        rawOf (colour j) := by
      rw [← hsource]
      cases source j <;> rfl
    obtain ⟨sc, hperf, hpacks⟩ := ih hsource'
    refine ⟨sc, (performs_pack (hvalid k) (hsource k) k).cons hperf, fun c => ?_⟩
    rw [hpacks]
    simp only [keepPack, State.setScratch_scratch, getElem_set_cell, resPixel_pixelRes]
    exact ite_mem_cons (fun c => packOf (colour c)) _

/-- PACK of the cells of a Frame that was unpacked gives back the words it was unpacked from. -/
theorem performs_repacks (src : Fin 64 → Fin 64) {s : State} {word : Fin 64 → Pixel}
    (hframe : ∀ k : Fin 64, s.scratch.frame[k] = unpack3 (word k)) :
    ∃ sc, Performs (Config.rowMajor.map fun k => .pack (.cell (src k)) k) s (s.setScratch sc) ∧
      ∀ c : Fin 64, sc.packs[c] = word (src c) := by
  obtain ⟨sc, hperf, hpacks⟩ := performs_packs (source := fun k => .cell (src k)) Config.rowMajor
    (fun k => Color.validChannels s.scratch.frame[src k]) fun k => Color.toRaw_eq _
  refine ⟨sc, hperf, fun c => ?_⟩
  rw [hpacks, if_pos (mem_rowMajor c), hframe]
  exact pack3_unpack3 _

/-! ### Writing the records of the cells -/

/-- The steps `body` write `p` to the record of cell `k` and nothing else, from any scratch that meets `I`, and leave
one that does. -/
def WritesCell (I : Scratch → Prop) (k : Fin 64) (p : Pixel) (body : List MicroOp) : Prop :=
  ∀ (s : State) (rest : List EnvEvent), I s.scratch → s.env = .port .ok :: rest →
    ∃ sc, I sc ∧ Performs body s
      (((s.setMem (memWrite s.mem (cellOffset k s.rot) Config.recordBytes p.toNat)).setEnv rest).setScratch sc)

/-- BOFFR and WRITERECORD write the word that has been packed for the cell. -/
theorem writesCell_writePack {word : Fin 64 → Pixel} (k : Fin 64) :
    WritesCell (fun sc => ∀ c : Fin 64, sc.packs[c] = word c) k (word k) [boffrCell k, .writePack k] := by
  intro s rest hpacks henv
  have hoff := keepOffset_cell k s.rot s
  have hwrite := performs_writePack (k := k) (s := keepOffset (offsetRes (cellOffset k s.rot)) s)
    (by rw [hoff]; exact recordOffsetOk_cellOffset k s.rot) henv
  rw [hoff, show (keepOffset (offsetRes (cellOffset k s.rot)) s).scratch.packs[k] = word k from hpacks k] at hwrite
  exact ⟨(keepOffset (offsetRes (cellOffset k s.rot)) s).scratch, hpacks, (performs_boffrCell k s).cons hwrite⟩

/-- The cells of a list are written one after the other, and the records of the others stay. -/
theorem performs_cellWrites {I : Scratch → Prop} {word : Fin 64 → Pixel} {body : Fin 64 → List MicroOp}
    (hbody : ∀ k, WritesCell I k (word k) (body k)) (cells : List (Fin 64)) {s : State} {rest : List EnvEvent}
    (hI : I s.scratch) (henv : s.env = List.replicate cells.length (.port .ok) ++ rest) :
    ∃ m sc, Performs (cells.flatMap body) s (((s.setMem m).setEnv rest).setScratch sc) ∧
      ∀ c : Fin 64, recordAt m (cellOffset c s.rot) =
        if c ∈ cells then word c else recordAt s.mem (cellOffset c s.rot) := by
  induction cells generalizing s with
  | nil =>
    obtain rfl : s.env = rest := henv
    exact ⟨s.mem, s.scratch, .nil s, by simp⟩
  | cons k cells ih =>
    obtain ⟨sc, hI', hperf⟩ := hbody k s _ hI henv
    obtain ⟨m, sc', hperf', hm⟩ := ih (s := ((s.setMem _).setEnv _).setScratch sc) hI' rfl
    refine ⟨m, sc', hperf.append hperf', fun c => ?_⟩
    rw [show recordAt m (cellOffset c s.rot) = _ from hm c]
    simp only [State.setScratch_mem, State.setEnv_mem, State.setMem_mem, State.setScratch_rot, State.setEnv_rot,
      State.setMem_rot, recordAt_memWrite_cell]
    exact ite_mem_cons word _

/-- The 64 record writes of SETPIXELS, for any list of cells (45_host_sequences R96). -/
theorem performs_writeFrame (cells : List (Fin 64)) {s : State} {rest : List EnvEvent}
    (henv : s.env = List.replicate cells.length (.port .ok) ++ rest) :
    ∃ m sc, Performs (writeFrameOps cells) s (((s.setMem m).setEnv rest).setScratch sc) ∧
      ∀ c : Fin 64, recordAt m (cellOffset c s.rot) =
        if c ∈ cells then s.scratch.packs[c] else recordAt s.mem (cellOffset c s.rot) :=
  performs_cellWrites (word := fun c => s.scratch.packs[c]) writesCell_writePack cells (fun _ => rfl) henv

/-- The same in an order of all cells: every cell has its word. -/
theorem performs_writeOrder {order : List (Fin 64)} (horder : IsCellOrder order) {s : State} {rest : List EnvEvent}
    (henv : s.DeviceServes 64 rest) :
    ∃ m sc, Performs (writeFrameOps order) s (((s.setMem m).setEnv rest).setScratch sc) ∧
      ∀ c : Fin 64, recordAt m (cellOffset c s.rot) = s.scratch.packs[c] := by
  obtain ⟨m, sc, hperf, hm⟩ := performs_writeFrame order (s := s) (rest := rest) (horder.1.symm ▸ henv)
  exact ⟨m, sc, hperf, fun c => (hm c).trans (if_pos (horder.mem c))⟩

theorem writeFrameOps_append_cons (before after : List (Fin 64)) (k : Fin 64) (ops : List MicroOp) :
    writeFrameOps (before ++ k :: after) ++ ops =
      (writeFrameOps before ++ [boffrCell k]) ++ .writePack k :: (writeFrameOps after ++ ops) := by
  simp [writeFrameOps]

/-- In a list without repetition the first `k` elements are those at the places below `k`. -/
theorem mem_take_iff_lt {order : List (Fin 64)} (hnodup : order.Nodup) {j : Nat} {c : Fin 64} (hj : order[j]? = some c)
    (k : Nat) : c ∈ order.take k ↔ j < k := by
  obtain ⟨hlt, rfl⟩ := List.getElem?_eq_some_iff.1 hj
  rw [List.mem_take_iff_getElem]
  constructor
  · rintro ⟨i, hi, heq⟩
    rw [hnodup.getElem_inj_iff] at heq
    omega
  · exact fun h => ⟨j, by omega, rfl⟩

/-- Where the write of the `k`-th cell fails, the cells before it are written and no other (20_memory R41). -/
theorem endsIn_writeFrame {order : List (Fin 64)} (horder : IsCellOrder order) {k : Nat} (hk : k < 64) {s : State}
    {rest : List EnvEvent} {landed : BitVec 128} (hext : s.NoExternalWriter)
    (henv : s.env = List.replicate k (.port .ok) ++ .port (.unavailable landed) :: rest) (ops : List MicroOp) :
    ∃ n t, EndsIn n (s.facing (writeFrameOps order ++ ops)) (.error .deviceUnavailable) t ∧
      t.rot = s.rot ∧ t.env = rest ∧
      ∀ (j : Nat) (c : Fin 64), order[j]? = some c → recordAt t.mem (cellOffset c s.rot) =
        if j < k then s.scratch.packs[c] else recordAt s.mem (cellOffset c s.rot) := by
  have hklen : k < order.length := horder.1.symm ▸ hk
  have hlen : (order.take k).length = k := List.length_take_of_le hklen.le
  obtain ⟨m, sc, hperf, hm⟩ := performs_writeFrame (order.take k) (hlen.symm ▸ henv)
  have hperf' := hperf.append (performs_boffrCell order[k] _)
  have hops : writeFrameOps order ++ ops = (writeFrameOps (order.take k) ++ [boffrCell order[k]]) ++
      .writePack order[k] :: (writeFrameOps (order.drop (k + 1)) ++ ops) := by
    rw [← writeFrameOps_append_cons, ← List.drop_eq_getElem_cons hklen, List.take_append_drop]
  rw [hops]
  refine ⟨_, _, hperf'.endsIn hext fun hext' => endsIn_writePack hext' _ rfl ?_ order[k], rfl, rfl, fun j c hj => ?_⟩
  · rw [keepOffset_cell]
    exact recordOffsetOk_cellOffset _ _
  · simp only [← mem_take_iff_lt horder.2 hj]
    exact hm c

end Sys2Proof.Machine
end

section
/-! GETPIXELS, SETPIXELS, CLEAR, SETROTATION and the flips on a device that serves them (45_host_sequences R95 to R105).
Each is read off the steps it performs: read the frame, pack the cells, write the records. -/

namespace Sys2Proof.Machine

/-! ### The cells of the grid -/

@[simp] theorem cellX_flipCellH (k : Fin 64) : cellX (flipCellH k) = 7 - cellX k := by
  simp only [flipCellH, cellX, cellY]
  omega

@[simp] theorem cellY_flipCellH (k : Fin 64) : cellY (flipCellH k) = cellY k := by
  simp only [flipCellH, cellX, cellY]
  omega

@[simp] theorem cellX_flipCellV (k : Fin 64) : cellX (flipCellV k) = cellX k := by
  simp only [flipCellV, cellX, cellY]
  omega

@[simp] theorem cellY_flipCellV (k : Fin 64) : cellY (flipCellV k) = 7 - cellY k := by
  simp only [flipCellV, cellX, cellY]
  omega

theorem flipCellH_flipCellH (k : Fin 64) : flipCellH (flipCellH k) = k :=
  cell_ext (by simp [Nat.sub_sub_self (cellX_le k)]) (by simp)

theorem flipCellV_flipCellV (k : Fin 64) : flipCellV (flipCellV k) = k :=
  cell_ext (by simp) (by simp [Nat.sub_sub_self (cellY_le k)])

theorem flipCellH_flipCellV (k : Fin 64) : flipCellH (flipCellV k) = flipCellV (flipCellH k) :=
  cell_ext (by simp) (by simp)

theorem cellOffset_flipCellH (k : Fin 64) (rot : Rotation) :
    cellOffset (flipCellH k) rot = byteOffset (7 - cellX k) (cellY k) rot := by
  rw [cellOffset, cellX_flipCellH, cellY_flipCellH]

theorem cellOffset_flipCellV (k : Fin 64) (rot : Rotation) :
    cellOffset (flipCellV k) rot = byteOffset (cellX k) (7 - cellY k) rot := by
  rw [cellOffset, cellX_flipCellV, cellY_flipCellV]

/-- Reversing both coordinates reverses the records, under every rotation. -/
theorem idx_reversed {x y : Nat} (hx : x ≤ 7) (hy : y ≤ 7) (rot : Rotation) :
    idx (7 - x) (7 - y) rot = 63 - idx x y rot := by
  cases rot <;> simp only [idx] <;> omega

/-- The cell that has record `i` at a rotation. -/
theorem exists_cellOffset_eq {i : Nat} (h : i < 64) (rot : Rotation) : ∃ c : Fin 64, cellOffset c rot = 2 * i := by
  obtain ⟨hx, hy⟩ := cellOfRecord_le h rot
  obtain ⟨c, hcx, hcy⟩ := exists_cell hx hy
  exact ⟨c, by rw [cellOffset, byteOffset, hcx, hcy, idx_cellOfRecord h]⟩

theorem cellOffset_reversed {c : Fin 64} {rot : Rotation} {i : Nat} (h : cellOffset c rot = 2 * i) :
    cellOffset (flipCellV (flipCellH c)) rot = 2 * (63 - i) := by
  have hidx : idx (cellX c) (cellY c) rot = i := Nat.eq_of_mul_eq_mul_left Nat.two_pos h
  simp only [cellOffset, byteOffset, cellX_flipCellV, cellY_flipCellV, cellX_flipCellH, cellY_flipCellH]
  rw [idx_reversed (cellX_le c) (cellY_le c), hidx]

/-! ### The bytes of the records -/

theorem byteAt_eq_record_low (m : Memory) (off : Nat) : Memory.byteAt m off = (recordAt m off).extractLsb' 0 8 := by
  rw [recordAt_eq, BitVec.extractLsb'_append_eq_right]

theorem byteAt_eq_record_high (m : Memory) (off : Nat) :
    Memory.byteAt m (off + 1) = (recordAt m off).extractLsb' 8 8 := by
  rw [recordAt_eq, BitVec.extractLsb'_append_eq_left]

/-- Every byte of the buffer is part of the record of a cell. -/
theorem byteAt_eq_extract {a : Nat} (h : a < 128) (rot : Rotation) : ∃ (c : Fin 64) (start : Nat),
    ∀ m, Memory.byteAt m a = (recordAt m (cellOffset c rot)).extractLsb' start 8 := by
  obtain ⟨c, hc⟩ := exists_cellOffset_eq (i := a / 2) (by omega) rot
  obtain heven | hodd : a = 2 * (a / 2) ∨ a = 2 * (a / 2) + 1 := by omega
  · exact ⟨c, 0, fun m => by rw [hc, ← heven, byteAt_eq_record_low]⟩
  · exact ⟨c, 8, fun m => by rw [hc, ← byteAt_eq_record_high, ← hodd]⟩

/-- Two buffers with the same record for every cell have the same bytes. -/
theorem byteAt_eq_of_records {m n : Memory} {rot : Rotation}
    (h : ∀ c : Fin 64, recordAt m (cellOffset c rot) = recordAt n (cellOffset c rot)) {a : Nat} (ha : a < 128) :
    Memory.byteAt m a = Memory.byteAt n a := by
  obtain ⟨c, start, hbyte⟩ := byteAt_eq_extract ha rot
  rw [hbyte, hbyte, h]

/-! ### A device that serves -/

theorem State.DeviceServes.add {s : State} {m n : Nat} {rest : List EnvEvent} (h : s.DeviceServes (m + n) rest) :
    s.DeviceServes m (List.replicate n (.port .ok) ++ rest) := by
  rw [State.DeviceServes, ← List.append_assoc, List.replicate_append_replicate]
  exact h

section
variable {s : State} {rest : List EnvEvent} {order : List (Fin 64)}

theorem State.NoExternalWriter.drop {front : List EnvEvent} (hext : s.NoExternalWriter) (henv : s.env = front ++ rest) :
    ∀ t : State, t.env = rest → t.NoExternalWriter :=
  fun _ ht e he => hext e (henv ▸ List.mem_append_right front (ht ▸ he))

/-! ### Writing the whole frame -/

/-- Every cell is packed, and then every record written, in any order of the cells (45_host_sequences R96). -/
theorem performs_packFrame {source : Fin 64 → ColorSource} {colour : Fin 64 → Nat × Nat × Nat} {cells : List (Fin 64)}
    (hcells : ∀ c, c ∈ cells) (horder : IsCellOrder order) (hvalid : ∀ k, ValidChannels (colour k))
    (hsource : ∀ k, sourceColor s (source k) = rawOf (colour k)) (henv : s.DeviceServes 64 rest) :
    ∃ m sc, Performs ((cells.map fun k => .pack (source k) k) ++ writeFrameOps order) s
        (((s.setMem m).setEnv rest).setScratch sc) ∧
      ∀ c : Fin 64, recordAt m (cellOffset c s.rot) = packOf (colour c) := by
  obtain ⟨sc, hpack, hpacks⟩ := performs_packs cells hvalid hsource
  obtain ⟨m, sc', hwrite, hm⟩ := performs_writeOrder horder (s := s.setScratch sc) henv
  exact ⟨m, sc', hpack.append hwrite, fun c => (hm c).trans ((hpacks c).trans (if_pos (hcells c)))⟩

/-- A Frame that was unpacked is written again with its cells moved: bit for bit, and at the rotation of the moment. -/
theorem performs_rewriteFrame (src : Fin 64 → Fin 64) (horder : IsCellOrder order) {word : Fin 64 → Pixel}
    (hframe : ∀ k : Fin 64, s.scratch.frame[k] = unpack3 (word k)) (henv : s.DeviceServes 64 rest) :
    ∃ m sc, Performs (rewriteFrameOps order src) s (((s.setMem m).setEnv rest).setScratch sc) ∧
      ∀ c : Fin 64, recordAt m (cellOffset c s.rot) = word (src c) := by
  obtain ⟨sc, hpack, hpacks⟩ := performs_repacks src hframe
  obtain ⟨m, sc', hwrite, hm⟩ := performs_writeOrder horder (s := s.setScratch sc) henv
  exact ⟨m, sc', hpack.append hwrite, fun c => (hm c).trans (hpacks c)⟩

theorem length_writeFrameOps (order : List (Fin 64)) : (writeFrameOps order).length = 2 * order.length := by
  simp [writeFrameOps, List.length_flatMap, Nat.mul_comm]

theorem length_rewriteFrameOps (horder : IsCellOrder order) (src : Fin 64 → Fin 64) :
    (rewriteFrameOps order src).length = 192 := by
  rw [rewriteFrameOps, List.length_append, List.length_map, length_rowMajor, length_writeFrameOps, horder.1]

/-! ### The grids and generators of SETPIXELS -/

/-- The cells of a grid, row by row. -/
theorem flatten_gridOf (f : Nat → Nat → Nat × Nat × Nat) :
    (gridOf f).flatten = Config.rowMajor.map fun k => rawOf (f (cellX k) (cellY k)) := rfl

theorem gridShapeOk_gridOf (f : Nat → Nat → Nat × Nat × Nat) : gridShapeOk (gridOf f) = true := rfl

theorem getElem_generatorOf (f : Nat → Nat → Nat × Nat × Nat) (k : Fin 64) :
    (generatorOf f)[k] = rawOf (f (cellX k) (cellY k)) := by
  simp [generatorOf]

/-- SETPIXELS of a grid of the right shape: PACK of its cells, row-major, and then the record writes. -/
theorem setGridOps_gridOf (p : Params) (f : Nat → Nat → Nat × Nat × Nat) : setGridOps p (gridOf f) =
    (Config.rowMajor.map fun k => .pack (.given (rawOf (f (cellX k) (cellY k)))) k) ++ writeFrameOps p.cellOrder ++
      [.done .nothing] := by
  rw [setGridOps, if_pos (gridShapeOk_gridOf f), flatten_gridOf, ← List.map_prod_left_eq_zip, List.map_map]
  rfl

/-- CLEAR is SETPIXELS of 64 times black (45_host_sequences R98). -/
theorem expand_clear (p : Params) : expand p .clear = setGridOps p (gridOf fun _ _ => (0, 0, 0)) := rfl

end

/-! ### Whole sequences -/

/-- `t` is `s` after a sequence that the device has served: `more` is left of the host's list and `rest` of the script,
and nothing else has changed but the buffer. -/
structure Served (s t : State) (more : List Request) (rest : List EnvEvent) : Prop where
  program : t.program = more
  env : t.env = rest
  rot : t.rot = s.rot
  params : t.params = s.params

section
variable {s : State} {more : List Request} {rest : List EnvEvent} {op : HostOp} (htodo : s.todo = [])
  (hprog : s.program = .sequence op :: more) (hext : s.NoExternalWriter)
include htodo hprog hext

theorem endsIn_getPixels (hop : op = .getPixels) (henv : s.DeviceServes 1 rest) :
    ∃ t F, EndsIn 131 s (.frame F) t ∧ Served s t more rest ∧ t.mem = s.mem ∧
      ∀ c : Fin 64, F[c] = unpack3 (recordAt s.mem (cellOffset c s.rot)) := by
  subst hop
  obtain ⟨sc, hperf, hframe⟩ := performs_readFrame (s := s.fresh more) henv
  have hend := hperf.sequence htodo hprog hext (ret := .frame) rfl
  rw [length_readFrameOps] at hend
  exact ⟨_, sc.frame, hend, ⟨rfl, rfl, rfl, rfl⟩, rfl, hframe⟩

/-- Writing a grid, by SETPIXELS or CLEAR. -/
theorem endsIn_setGrid {f : Nat → Nat → Nat × Nat × Nat} (hvalid : ∀ x y, x ≤ 7 → y ≤ 7 → ValidChannels (f x y))
    (hwf : s.params.wf) (henv : s.DeviceServes 64 rest) (hop : expand s.params op = setGridOps s.params (gridOf f)) :
    ∃ t, EndsIn 194 s .done t ∧ Served s t more rest ∧
      ∀ c : Fin 64, recordAt t.mem (cellOffset c s.rot) = packOf (f (cellX c) (cellY c)) := by
  obtain ⟨m, sc, hperf, hm⟩ := performs_packFrame (s := s.fresh more)
    (source := fun k => .given (rawOf (f (cellX k) (cellY k)))) mem_rowMajor hwf
    (fun k => hvalid _ _ (cellX_le k) (cellY_le k)) (fun _ => rfl) henv
  have hend := hperf.sequence htodo hprog hext (hop.trans (setGridOps_gridOf _ f))
  rw [List.length_append, List.length_map, length_rowMajor, length_writeFrameOps, hwf.1] at hend
  exact ⟨_, hend, ⟨rfl, rfl, rfl, rfl⟩, hm⟩

/-- Reading the frame and writing it again with its cells moved. -/
theorem endsIn_flip {src : Fin 64 → Fin 64} (hwf : s.params.wf) (henv : s.DeviceServes 65 rest)
    (hop : expand s.params op = readFrameOps ++ rewriteFrameOps s.params.cellOrder src ++ [.done .nothing]) :
    ∃ t, EndsIn 323 s .done t ∧ Served s t more rest ∧
      ∀ c : Fin 64, recordAt t.mem (cellOffset c s.rot) = recordAt s.mem (cellOffset (src c) s.rot) := by
  obtain ⟨sc, hread, hframe⟩ := performs_readFrame (s := s.fresh more)
    (State.DeviceServes.add (m := 1) (n := 64) henv)
  obtain ⟨m, sc', hwrite, hm⟩ := performs_rewriteFrame (s := ((s.fresh more).setEnv _).setScratch sc) src hwf hframe rfl
  have hend := (hread.append hwrite).sequence htodo hprog hext hop
  rw [List.length_append, length_readFrameOps, length_rewriteFrameOps hwf] at hend
  exact ⟨_, hend, ⟨rfl, rfl, rfl, rfl⟩, hm⟩

end

/-- Settles O47: the Frame that is read is returned. -/
theorem getPixelsReturnsFrame : Obligations.GetPixelsReturnsFrame := by
  intro s rest ⟨htodo, hprog⟩ hext henv
  obtain ⟨t, F, ⟨-, v, hrun⟩, ht, hmem, hF⟩ := endsIn_getPixels htodo hprog hext rfl henv
  exact ⟨_, F, hrun, rfl, hF, hmem, ht.rot, ht.env, rfl⟩

/-! ### SETPIXELS -/

/-- A lazy generator packs and writes the cells in turn (45_host_sequences R97). -/
theorem writesCell_lazy {c : Nat × Nat × Nat} {colour : RawColor} (hvalid : ValidChannels c)
    (hcolour : colour = rawOf c) (k : Fin 64) :
    WritesCell (fun _ => True) k (packOf c) [.pack (.given colour) k, boffrCell k, .writePack k] := by
  intro s rest _ henv
  have hpack := performs_pack (s := s) (source := .given colour) hvalid hcolour k
  have hword : (keepPack k (pixelRes (packOf c)) s).scratch.packs[k] = packOf c := by
    rw [keepPack, State.setScratch_scratch, getElem_set_cell, if_pos rfl, resPixel_pixelRes]
  obtain ⟨sc, -, hwrite⟩ := writesCell_writePack
    (word := fun j => (keepPack k (pixelRes (packOf c)) s).scratch.packs[j]) k _ rest (fun _ => rfl) henv
  rw [hword] at hwrite
  exact ⟨sc, trivial, hpack.cons hwrite⟩

section
variable {s : State} {more : List Request} {rest : List EnvEvent} {f : Nat → Nat → Nat × Nat × Nat}
  (htodo : s.todo = [])
  (hprog : s.program = .sequence (.setPixels (.generator (generatorOf f))) :: more) (hext : s.NoExternalWriter)
  (hvalid : ∀ x y, x ≤ 7 → y ≤ 7 → ValidChannels (f x y)) (hwf : s.params.wf) (henv : s.DeviceServes 64 rest)
include htodo hprog hext hvalid hwf henv

/-- Writing what a generator gives, whenever it is validated. -/
theorem endsIn_setGenerator :
    ∃ t, EndsIn 194 s .done t ∧ Served s t more rest ∧
      ∀ c : Fin 64, recordAt t.mem (cellOffset c s.rot) = packOf (f (cellX c) (cellY c)) := by
  have hcell (k : Fin 64) : ValidChannels (f (cellX k) (cellY k)) := hvalid _ _ (cellX_le k) (cellY_le k)
  cases hgen : s.params.genValidate with
  | eager =>
    obtain ⟨m, sc, hperf, hm⟩ := performs_packFrame (s := s.fresh more)
      (source := fun k => .given (generatorOf f)[k]) (IsCellOrder.mem hwf) hwf hcell (getElem_generatorOf f) henv
    have hend := hperf.sequence htodo hprog hext (ret := .nothing)
      (by simp only [expand, setGeneratorOps, hgen])
    rw [List.length_append, List.length_map, length_writeFrameOps, hwf.1] at hend
    exact ⟨_, hend, ⟨rfl, rfl, rfl, rfl⟩, hm⟩
  | lazy =>
    have henv' : (s.fresh more).env = List.replicate s.params.cellOrder.length (.port .ok) ++ rest := by
      rw [hwf.1]
      exact henv
    obtain ⟨m, sc, hperf, hm⟩ := performs_cellWrites
      (fun k => writesCell_lazy (hcell k) (getElem_generatorOf f k) k) s.params.cellOrder trivial henv'
    have hend := hperf.sequence htodo hprog hext (ret := .nothing) (by simp only [expand, setGeneratorOps, hgen])
    rw [List.length_flatMap] at hend
    simp only [List.length_cons, List.length_nil, List.map_const', List.sum_replicate, hwf.1] at hend
    exact ⟨_, hend, ⟨rfl, rfl, rfl, rfl⟩, fun c => (hm c).trans (if_pos (IsCellOrder.mem hwf c))⟩

end

/-- Settles O48: the cells are packed and written, for a grid and for a generator of either kind. -/
theorem setPixelsWritesFrame : Obligations.SetPixelsWritesFrame := by
  intro s f source rest hvalid hsource hwf ⟨htodo, hprog⟩ hext henv
  obtain ⟨t, ⟨-, v, hrun⟩, ht, hrecords⟩ : ∃ t, EndsIn 194 s .done t ∧ Served s t [] rest ∧
      ∀ c : Fin 64, recordAt t.mem (cellOffset c s.rot) = packOf (f (cellX c) (cellY c)) := by
    obtain rfl | rfl := hsource
    · exact endsIn_setGrid htodo hprog hext hvalid hwf henv rfl
    · exact endsIn_setGenerator htodo hprog hext hvalid hwf henv
  refine ⟨_, hrun, rfl, ht.rot, ht.env, rfl, fun x y hx hy => ?_⟩
  obtain ⟨c, rfl, rfl⟩ := exists_cell hx hy
  exact hrecords c

/-- Settles O52: all records are black's word, which is zero and is read as black. -/
theorem clearThenGetPixelsIsBlack : Obligations.ClearThenGetPixelsIsBlack := by
  intro s rest hwf htodo hprog hext henv
  have hserves := State.DeviceServes.add (m := 64) (n := 1) henv
  obtain ⟨t, hclear, ht, hrecords⟩ := endsIn_setGrid htodo hprog hext
    (fun _ _ _ _ => ⟨by decide, by decide, by decide⟩) hwf hserves (expand_clear _)
  obtain ⟨t', F, hget, ht', hmem, hF⟩ := endsIn_getPixels (s := finish .done t) rfl ht.program
    (hext.drop hserves _ ht.env) rfl ht.env
  obtain ⟨-, v, hrun⟩ : EndsIn 325 s (.frame F) t' := hclear.leads.endsIn hget
  refine ⟨_, F, hrun, rfl, fun k => ?_, fun a ha => ?_, ht'.rot.trans ht.rot, ht'.env⟩
  · rw [hF k, finish_mem, finish_rot, ht.rot, hrecords]
    decide
  · obtain ⟨c, start, hbyte⟩ := byteAt_eq_extract ha s.rot
    rw [hbyte, finish_mem, State.setRsp_mem, hmem, finish_mem, hrecords, show packOf (0, 0, 0) = 0#16 from rfl]
    exact BitVec.extractLsb'_zero

/-! ### SETROTATION and the flips -/

/-- SETROTATION up to its writes: the frame has been read at the old rotation and packed, and ROT is new. -/
theorem performs_setRotation {s : State} {v : Int} {r : Rotation} {rest : List EnvEvent}
    (hr : Rotation.ofDegrees v = some r) (henv : s.env = .port .ok :: rest) :
    ∃ sc, Performs (.checkRotation (.int v) :: readFrameOps ++ .setrot (.int v) ::
          Config.rowMajor.map fun k => .pack (.cell k) k) s (((s.setEnv rest).setRot r).setScratch sc) ∧
      ∀ c : Fin 64, sc.packs[c] = recordAt s.mem (cellOffset c s.rot) := by
  obtain ⟨sc, hread, hframe⟩ := performs_readFrame henv
  obtain ⟨sc', hpack, hpacks⟩ := performs_repacks id (s := ((s.setEnv rest).setScratch sc).setRot r) hframe
  have hcheck := performs_checkRotation (Arg.rotation_ne_none hr) s
  exact ⟨sc', (hcheck.cons hread).append ((performs_setrot hr _).cons hpack), hpacks⟩

theorem expand_setRotation (p : Params) (v : Int) : expand p (.setRotation (.int v)) =
    (.checkRotation (.int v) :: readFrameOps ++ .setrot (.int v) :: Config.rowMajor.map fun k => .pack (.cell k) k) ++
      (writeFrameOps p.cellOrder ++ [.done .nothing]) := by
  simp [expand, rewriteFrameOps]

/-- Settles O54: what was read and packed at the old rotation is written at the new one. -/
theorem setRotationPreservesPicture : Obligations.SetRotationPreservesPicture := by
  intro s v r rest hr hwf ⟨htodo, hprog⟩ hext henv
  obtain ⟨sc, hpack, hpacks⟩ := performs_setRotation (s := s.fresh []) hr
    (State.DeviceServes.add (m := 1) (n := 64) henv)
  obtain ⟨m, sc', hwrite, hm⟩ := performs_writeOrder hwf (s := (((s.fresh []).setEnv _).setRot r).setScratch sc) rfl
  have hend := (hpack.append hwrite).sequence htodo hprog hext
    ((expand_setRotation _ v).trans (List.append_assoc ..).symm)
  rw [List.length_append, List.length_append, List.length_cons, List.length_cons, List.length_map, length_readFrameOps,
    length_rowMajor, length_writeFrameOps, hwf.1] at hend
  obtain ⟨-, w, hrun⟩ := hend
  have hrecords (c : Fin 64) : recordAt m (cellOffset c r) = recordAt s.mem (cellOffset c s.rot) :=
    (hm c).trans (hpacks c)
  refine ⟨_, hrun, rfl, rfl, rfl, rfl, fun x y hx hy => ?_⟩
  obtain ⟨c, rfl, rfl⟩ := exists_cell hx hy
  exact ⟨congrArg unpack3 (hrecords c), hrecords c⟩

/-- Settles O56: the record of a cell is that of the cell it is reversed from. -/
theorem flipsReverseTheGrid : Obligations.FlipsReverseTheGrid := by
  refine fun s rest hwf hext henv => ⟨fun ⟨htodo, hprog⟩ => ?_, fun ⟨htodo, hprog⟩ => ?_⟩
  · obtain ⟨t, ⟨-, v, hrun⟩, ht, hrecords⟩ := endsIn_flip htodo hprog hext hwf henv rfl
    refine ⟨_, hrun, rfl, ht.rot, ht.env, fun x y hx hy => ?_⟩
    obtain ⟨c, rfl, rfl⟩ := exists_cell hx hy
    exact (hrecords c).trans (by rw [cellOffset_flipCellH])
  · obtain ⟨t, ⟨-, v, hrun⟩, ht, hrecords⟩ := endsIn_flip htodo hprog hext hwf henv rfl
    refine ⟨_, hrun, rfl, ht.rot, ht.env, fun x y hx hy => ?_⟩
    obtain ⟨c, rfl, rfl⟩ := exists_cell hx hy
    exact (hrecords c).trans (by rw [cellOffset_flipCellV])

/-- Two flips, one after the other: the cells are moved by the one and then by the other. -/
theorem after_flips {s : State} {rest : List EnvEvent} {op op' : HostOp} {src src' : Fin 64 → Fin 64}
    (hwf : s.params.wf) (htodo : s.todo = []) (hprog : s.program = [.sequence op, .sequence op'])
    (hext : s.NoExternalWriter) (henv : s.DeviceServes 130 rest)
    (hop : ∀ p : Params, expand p op = readFrameOps ++ rewriteFrameOps p.cellOrder src ++ [.done .nothing])
    (hop' : ∀ p : Params, expand p op' = readFrameOps ++ rewriteFrameOps p.cellOrder src' ++ [.done .nothing]) :
    ∃ t, s.after 646 = .next t ∧ t.report = some .done ∧ t.rot = s.rot ∧
      ∀ c : Fin 64, recordAt t.mem (cellOffset c s.rot) = recordAt s.mem (cellOffset (src (src' c)) s.rot) := by
  have hserves := State.DeviceServes.add (m := 65) (n := 65) henv
  obtain ⟨t, hend, ht, hrecords⟩ := endsIn_flip htodo hprog hext hwf hserves (hop _)
  obtain ⟨t', hend', ht', hrecords'⟩ := endsIn_flip (s := finish .done t) rfl ht.program (hext.drop hserves _ ht.env)
    (by rw [finish_params, ht.params]; exact hwf) ht.env (hop' _)
  obtain ⟨-, v, hrun⟩ : EndsIn 646 s .done t' := hend.leads.endsIn hend'
  refine ⟨_, hrun, rfl, ht'.rot.trans ht.rot, fun c => ?_⟩
  rw [finish_rot, finish_mem, ht.rot] at hrecords'
  exact (hrecords' c).trans (hrecords (src' c))

/-- Settles O57: each flip moves every cell back, so every record is restored, and with them every byte. -/
theorem flipsAreInvolutions : Obligations.FlipsAreInvolutions := by
  intro s op rest hop hwf htodo hprog hext henv
  obtain ⟨t, hrun, hreport, hrot, hrecords⟩ : ∃ t, s.after 646 = .next t ∧ t.report = some .done ∧ t.rot = s.rot ∧
      ∀ c : Fin 64, recordAt t.mem (cellOffset c s.rot) = recordAt s.mem (cellOffset c s.rot) := by
    obtain rfl | rfl := hop
    · have h := after_flips hwf htodo hprog hext henv (fun _ => rfl) fun _ => rfl
      simpa only [flipCellH_flipCellH] using h
    · have h := after_flips hwf htodo hprog hext henv (fun _ => rfl) fun _ => rfl
      simpa only [flipCellV_flipCellV] using h
  exact ⟨t, hrun, hreport, hrot, fun a ha => byteAt_eq_of_records hrecords ha⟩

/-- Settles O58: the flips commute, and together reverse both coordinates, which reverses the records. -/
theorem bothFlipsReverseTheRecords : Obligations.BothFlipsReverseTheRecords := by
  intro s rest hwf htodo hprog hext henv
  obtain ⟨t, hrun, hreport, -, hrecords⟩ : ∃ t, s.after 646 = .next t ∧ t.report = some .done ∧ t.rot = s.rot ∧
      ∀ c : Fin 64, recordAt t.mem (cellOffset c s.rot) =
        recordAt s.mem (cellOffset (flipCellV (flipCellH c)) s.rot) := by
    obtain hprog | hprog := hprog
    · have h := after_flips hwf htodo hprog hext henv (fun _ => rfl) fun _ => rfl
      simpa only [flipCellH_flipCellV] using h
    · exact after_flips hwf htodo hprog hext henv (fun _ => rfl) fun _ => rfl
  refine ⟨t, hrun, hreport, fun i hi => ?_⟩
  obtain ⟨c, hc⟩ := exists_cellOffset_eq hi s.rot
  rw [← hc, ← cellOffset_reversed hc]
  exact hrecords c

end Sys2Proof.Machine
end

section
/-! Sequences that are rejected or that the device fails (45_host_sequences R96, R97, R100; 60_exceptions R108 to R111).
What comes before the failing step is performed, and the sequence ends there. -/

namespace Sys2Proof.Machine

/-! ### A failing write -/

/-- Settles O49: the packs are those of the grid, and the writes before the failing one are performed. -/
theorem setPixelsFailureLeavesPrefix : Obligations.SetPixelsFailureLeavesPrefix := by
  intro s f k landed rest hvalid hwf hk ⟨htodo, hprog⟩ hext henv
  obtain ⟨sc, hpack, hpacks⟩ := performs_packs (s := s.fresh [])
    (source := fun k => .given (rawOf (f (cellX k) (cellY k)))) Config.rowMajor
    (fun k => hvalid _ _ (cellX_le k) (cellY_le k)) fun _ => rfl
  obtain ⟨n, t, hend, hrot, ht, hrecords⟩ := endsIn_writeFrame (s := (s.fresh []).setScratch sc) hwf hk hext henv
    [.done .nothing]
  have hend' := hpack.endsIn hext fun _ => hend
  rw [← List.append_assoc, ← setGridOps_gridOf s.params f] at hend'
  obtain ⟨hpos, v, hrun⟩ := endsIn_sequence htodo hprog hext hend'
  refine ⟨_, _, hpos, hrun, rfl, hrot, ht, fun j c hj => (hrecords j c hj).trans ?_⟩
  rw [show ((s.fresh []).setScratch sc).scratch.packs[c] = _ from (hpacks c).trans (if_pos (mem_rowMajor c))]
  rfl

/-! ### SETROTATION -/

/-- Settles O55: the sequence ends at its check, at its read, or at one of its writes. -/
theorem setRotationFailures : Obligations.SetRotationFailures := by
  refine ⟨fun s a ha ⟨htodo, hprog⟩ hext => ?_, fun s v r landed rest hr ⟨htodo, hprog⟩ hext henv => ?_,
    fun s v r k landed rest hr hwf hk ⟨htodo, hprog⟩ hext henv => ?_⟩
  · have hnone : a.rotation = none := by
      cases a with
      | int v => exact ha v rfl
      | notInteger => rfl
    obtain ⟨-, v, hrun⟩ := endsIn_sequence htodo hprog hext
      (endsIn_checkRotation (s := s.fresh []) hext _ hnone)
    exact ⟨_, hrun, rfl, rfl, rfl, rfl, rfl⟩
  · have hcheck := performs_checkRotation (Arg.rotation_ne_none hr) (s.fresh [])
    obtain ⟨-, w, hrun⟩ := endsIn_sequence htodo hprog hext
      (hcheck.endsIn hext fun hext' => endsIn_readAll hext' _ henv)
    exact ⟨_, hrun, rfl, rfl, rfl⟩
  · obtain ⟨sc, hpack, hpacks⟩ := performs_setRotation (s := s.fresh []) hr henv
    obtain ⟨n, t, hend, hrot, -, hrecords⟩ := endsIn_writeFrame hwf hk
      (s := (((s.fresh []).setEnv _).setRot r).setScratch sc) (hpack hext).1 rfl [.done .nothing]
    have hend' := hpack.endsIn hext fun _ => hend
    rw [← expand_setRotation s.params] at hend'
    obtain ⟨hpos, w, hrun⟩ := endsIn_sequence htodo hprog hext hend'
    refine ⟨_, _, hpos, hrun, rfl, hrot, fun j c hj => (hrecords j c hj).trans ?_⟩
    rw [State.setScratch_scratch, hpacks]
    rfl

/-! ### Bad colours, coordinates and shapes -/

/-- Where the colours of a list of cells are packed and one is bad, the sequence ends at the first that is. -/
theorem endsIn_packs (cells : List (Fin 64 × RawColor)) {s : State} (hext : s.NoExternalWriter)
    (hbad : ∃ kc ∈ cells, ¬kc.2.Valid) (ops : List MicroOp) :
    ∃ n, EndsIn n (s.facing ((cells.map fun kc => .pack (.given kc.2) kc.1) ++ ops)) (.error .invalidColor) s := by
  induction cells generalizing s with
  | nil => obtain ⟨kc, hmem, -⟩ := hbad; cases hmem
  | cons kc cells ih =>
    by_cases hkc : kc.2.Valid
    · obtain ⟨kc', hmem, hbad⟩ := hbad
      have htail : kc' ∈ cells := (List.mem_cons.1 hmem).resolve_left fun h => hbad (h ▸ hkc)
      obtain ⟨c, hc, hcolour⟩ := hkc
      have hpack := performs_pack (s := s) (source := .given kc.2) hc hcolour kc.1
      obtain ⟨n, hend⟩ := ih (hpack hext).1 ⟨kc', htail, hbad⟩
      exact ⟨_, hpack.endsIn hext fun _ => hend⟩
    · exact ⟨1, endsIn_pack hext _ hkc kc.1⟩

theorem gridShapeOk_iff {rows : List (List RawColor)} :
    gridShapeOk rows = true ↔ rows.length = 8 ∧ ∀ row ∈ rows, row.length = 8 := by
  simp only [gridShapeOk, Bool.and_eq_true, List.all_eq_true, decide_eq_true_iff]
  rfl

/-- A grid of the right shape has a colour for each of the 64 cells. -/
theorem length_flatten_grid {rows : List (List RawColor)} (hlen : rows.length = 8)
    (hrows : ∀ row ∈ rows, row.length = 8) : rows.flatten.length = 64 := by
  rw [List.length_flatten, List.map_eq_replicate_iff.2 hrows, List.sum_replicate, hlen]
  rfl

/-- Every colour of such a grid is packed for some cell. -/
theorem exists_mem_zip_rowMajor {colours : List RawColor} (hlen : colours.length = 64) {c : RawColor}
    (hc : c ∈ colours) : ∃ k, (k, c) ∈ Config.rowMajor.zip colours := by
  obtain ⟨i, hi, rfl⟩ := List.getElem_of_mem hc
  have hzip : i < (Config.rowMajor.zip colours).length := by
    rw [List.length_zip, length_rowMajor, hlen]
    omega
  exact ⟨_, List.getElem_zip (h := hzip) ▸ List.getElem_mem hzip⟩

/-- Settles O51: SETPIXELS begins with a PACK of every colour, and the first that is bad ends it. -/
theorem badColourStopsBeforeWriting : Obligations.BadColourStopsBeforeWriting := by
  intro s rows cells source hsource ⟨htodo, hprog⟩ hext
  obtain ⟨colours, ops, hops, hbad⟩ : ∃ (colours : List (Fin 64 × RawColor)) (ops : List MicroOp),
      expand s.params (.setPixels source) = (colours.map fun kc => .pack (.given kc.2) kc.1) ++ ops ∧
        ∃ kc ∈ colours, ¬kc.2.Valid := by
    obtain ⟨rfl, hlen, hrows, row, hrow, c, hc, hbad⟩ | ⟨rfl, hgen, hwf, k, hbad⟩ := hsource
    · obtain ⟨k, hk⟩ := exists_mem_zip_rowMajor (length_flatten_grid hlen hrows) (List.mem_flatten.2 ⟨row, hrow, hc⟩)
      refine ⟨_, writeFrameOps s.params.cellOrder ++ [.done .nothing], ?_, _, hk, hbad⟩
      simp only [expand, setGridOps, gridShapeOk_iff.2 ⟨hlen, hrows⟩, if_true, List.append_assoc]
    · refine ⟨s.params.cellOrder.map fun k => (k, cells[k]), writeFrameOps s.params.cellOrder ++ [.done .nothing], ?_,
        (k, cells[k]), List.mem_map_of_mem (IsCellOrder.mem hwf k), hbad⟩
      simp only [expand, setGeneratorOps, hgen, List.map_map, List.append_assoc]
      rfl
  obtain ⟨n, hend⟩ := endsIn_packs colours (s := s.fresh []) hext hbad ops
  obtain ⟨hpos, v, hrun⟩ := endsIn_sequence htodo hprog hext (hops ▸ hend)
  exact ⟨_, _, hpos, hrun, rfl, rfl, rfl, rfl, rfl⟩

/-- Settles O50: the sequence is the one step that reports the shape. -/
theorem wrongShapeIsRejected : Obligations.WrongShapeIsRejected := by
  intro s rows ⟨htodo, hprog⟩ hext hfirst hshape
  have hops : expand s.params (.setPixels (.grid rows)) = [.raise .invalidFrameShape] := by
    simp only [expand, setGridOps, if_neg (mt gridShapeOk_iff.1 hshape), hfirst, if_true, List.nil_append]
  have hbegin := step_begin htodo hprog hext
  rw [hops] at hbegin
  have hraise := step_facing (s := s.fresh []) hext (.raise .invalidFrameShape) []
  have hrun : s.after 2 = .next (stop .invalidFrameShape ((s.fresh []).facing [])) :=
    (State.after_succ hbegin 1).trans (State.after_succ hraise 0)
  exact ⟨_, hrun, rfl, rfl, rfl, rfl, rfl, rfl⟩

/-- Settles O46: SETPIXEL begins with its two checks, in the order of `ERR_ORDER`, and the first that fails ends it. -/
theorem setPixelErrors : Obligations.SetPixelErrors := by
  intro s x y c colourOk coordinateOk ⟨htodo, hprog⟩ hext hbad
  obtain ⟨n, e, hn, hend, hcolour, hcoordinate, hboth⟩ : ∃ n e, n ≤ 2 ∧
      EndsIn n ((s.fresh []).facing (setPixelOps s.params x y c)) (.error e) (s.fresh []) ∧
      (¬colourOk → coordinateOk → e = .invalidColor) ∧ (colourOk → ¬coordinateOk → e = .invalidCoordinate) ∧
      (¬colourOk → ¬coordinateOk →
        e = if s.params.setPixelColourFirst then .invalidColor else .invalidCoordinate) := by
    have hext' : (s.fresh []).NoExternalWriter := hext
    cases hfirst : s.params.setPixelColourFirst with
    | true =>
      simp only [setPixelOps, hfirst, if_true]
      by_cases hc : colourOk
      · have hxy : ¬coordinateOk := fun h => hbad ⟨hc, h⟩
        obtain ⟨d, hd, hcd⟩ := hc
        have hpack := performs_pack (s := s.fresh []) (source := .given c) hd hcd 0
        exact ⟨2, _, le_refl 2, hpack.endsIn hext' fun h => endsIn_boffr h _ hxy, fun h => absurd ⟨d, hd, hcd⟩ h,
          fun _ _ => rfl, fun h => absurd ⟨d, hd, hcd⟩ h⟩
      · exact ⟨1, _, one_le_two, endsIn_pack hext' _ hc 0, fun _ _ => rfl, fun h => absurd h hc, fun _ _ => rfl⟩
    | false =>
      simp only [setPixelOps, hfirst]
      by_cases hxy : coordinateOk
      · have hc : ¬colourOk := fun h => hbad ⟨h, hxy⟩
        obtain ⟨u, v, hu, hv, rfl, rfl⟩ := hxy
        have hboffr := performs_boffr hu hv (s.fresh [])
        exact ⟨2, _, le_refl 2, hboffr.endsIn hext' fun h => endsIn_pack h _ hc 0, fun _ _ => rfl,
          fun h => absurd h hc, fun _ h => absurd ⟨u, v, hu, hv, rfl, rfl⟩ h⟩
      · exact ⟨1, _, one_le_two, endsIn_boffr hext' _ hxy, fun _ h => absurd h hxy, fun _ _ => rfl, fun _ _ => rfl⟩
  obtain ⟨hpos, v, hrun⟩ := endsIn_sequence htodo hprog hext hend
  exact ⟨_, _, e, hpos, by omega, hrun, rfl, rfl, rfl, rfl, rfl, hcolour, hcoordinate, hboth⟩

end Sys2Proof.Machine
end

section
/-! One pixel, and the rotation (45_host_sequences R93, R94, R99); and the port operations by themselves, with no
external write in their midst (R89 to R92). -/

namespace Sys2Proof.Machine

/-! ### One pixel -/

section
variable {x y : Nat} (hx : x ≤ 7) (hy : y ≤ 7) (rot : Rotation)
include hx hy

theorem byteOffset_lt : byteOffset x y rot < 128 := Nat.lt_of_le_of_lt (byteOffset_le hx hy rot) (by decide)

theorem recordOffsetOk_byteOffset : recordOffsetOk (byteOffset x y rot) = true :=
  recordOffsetOk_iff.2 ⟨Nat.mul_mod_right 2 _, byteOffset_le hx hy rot⟩

end

/-- GETPIXEL up to its return: the copy has the record that BOFFR has found, and its Color is held. -/
theorem performs_getPixel {s : State} {x y : Nat} {rest : List EnvEvent} (hx : x ≤ 7) (hy : y ≤ 7)
    (henv : s.env = .port .ok :: rest) : ∃ sc,
      Performs [.boffr (.int x) (.int y), .readAll, .unpack 0] s ((s.setEnv rest).setScratch sc) ∧
      sc.frame[0] = unpack3 (recordAt s.mem (byteOffset x y s.rot)) := by
  obtain ⟨buf, hbuf⟩ : ∃ buf, readFrame s.mem = buf := ⟨_, rfl⟩
  obtain ⟨off, hoff⟩ : ∃ off, resOffset (offsetRes (byteOffset x y s.rot)) = off := ⟨_, rfl⟩
  have hrec := bufRecord_copy (sc := { s.scratch with off := off, buf := buf }) (off := byteOffset x y s.rot) hbuf.symm
    (hoff ▸ toNat_resOffset_offsetRes (byteOffset_lt hx hy s.rot)) (Nat.mul_mod_right 2 _)
  have hboffr := performs_boffr hx hy s
  rw [keepOffset, hoff] at hboffr
  have hread := performs_readAll (s := s.setScratch { s.scratch with off := off }) hbuf henv
  have hunpack := performs_unpack
    (s := (s.setEnv rest).setScratch { s.scratch with off := off, buf := buf }) hrec 0
  refine ⟨_, hboffr.cons (hread.cons hunpack), ?_⟩
  simp

/-- Settles O44: the Color that is held is returned, or BOFFR ends the sequence. -/
theorem getPixelMeaning : Obligations.GetPixelMeaning := by
  refine ⟨fun s x y rest hx hy ⟨htodo, hprog⟩ hext henv => ?_, fun s x y hxy ⟨htodo, hprog⟩ hext => ?_⟩
  · obtain ⟨sc, hperf, hcolor⟩ := performs_getPixel (s := s.fresh []) hx hy henv
    obtain ⟨-, v, hrun⟩ := hperf.sequence htodo hprog hext (ret := .color) rfl
    exact ⟨_, hrun, congrArg (fun c => some (Report.color c)) hcolor, rfl, rfl, rfl, rfl⟩
  · have hbad : ¬CoordinatesValid (.int x) (.int y) := by
      rintro ⟨u, v, hu, hv, hxu, hyv⟩
      cases hxu
      cases hyv
      omega
    obtain ⟨-, v, hrun⟩ := endsIn_sequence htodo hprog hext (endsIn_boffr (s := s.fresh []) hext _ hbad)
    exact ⟨_, hrun, rfl, rfl, rfl, rfl, rfl⟩

/-- SETPIXEL up to its write: in either order of the checks the word and the offset are held. -/
theorem performs_setPixel {s : State} {x y : Nat} {c : Nat × Nat × Nat} (hx : x ≤ 7) (hy : y ≤ 7)
    (hc : ValidChannels c) (p : Params) : ∃ ops sc,
      setPixelOps p (.int x) (.int y) (rawOf c) = ops ++ [.writePack 0, .done .nothing] ∧ ops.length = 2 ∧
      Performs ops s (s.setScratch sc) ∧ sc.off.toNat = byteOffset x y s.rot ∧ sc.packs[0] = packOf c := by
  have hoff := toNat_resOffset_offsetRes (byteOffset_lt hx hy s.rot)
  have hpack (t : State) := performs_pack (s := t) (source := .given (rawOf c)) hc rfl 0
  cases hfirst : p.setPixelColourFirst with
  | true =>
    refine ⟨[.pack (.given (rawOf c)) 0, .boffr (.int x) (.int y)], _, by simp [setPixelOps, hfirst], rfl,
      (hpack s).cons (performs_boffr hx hy _), hoff, ?_⟩
    simp [keepPack]
  | false =>
    refine ⟨[.boffr (.int x) (.int y), .pack (.given (rawOf c)) 0], _, by simp [setPixelOps, hfirst], rfl,
      (performs_boffr hx hy s).cons (hpack _), hoff, ?_⟩
    simp [keepOffset]

/-- Settles O45: the write is of the word and at the offset that the two commands have answered. -/
theorem setPixelWritesOneRecord : Obligations.SetPixelWritesOneRecord := by
  intro s x y c rest hx hy hc ⟨htodo, hprog⟩ hext henv
  obtain ⟨ops, sc, hops, hlen, hperf, hoff, hword⟩ := performs_setPixel (s := s.fresh []) hx hy hc s.params
  have hwrite := performs_writePack (k := 0) (s := (s.fresh []).setScratch sc)
    (by rw [State.setScratch_scratch, hoff]; exact recordOffsetOk_byteOffset hx hy s.rot) henv
  have hend := (hperf.append hwrite).sequence htodo hprog hext (ret := .nothing)
    (by rw [List.append_assoc]; exact hops)
  rw [List.length_append, hlen] at hend
  obtain ⟨-, v, hrun⟩ := hend
  have hmem : sc.off.toNat = byteOffset x y s.rot := hoff
  have hpix : sc.packs[(0 : Fin 64)] = packOf c := hword
  refine ⟨_, hrun, rfl, rfl, rfl, rfl, ?_, fun a hlow hhigh => ?_⟩
  · simp only [finish_mem, State.setRsp_mem, State.setMem_mem, State.setScratch_scratch, hmem, hpix]
    exact recordAt_memWrite_same _ _ _
  · simp only [finish_mem, State.setRsp_mem, State.setMem_mem, State.setScratch_scratch, hmem]
    rw [byteAt_record, if_neg hlow, if_neg hhigh]
    rfl

/-- Settles O53: the degrees that GETROT has answered are returned. -/
theorem getRotationReturnsDegrees : Obligations.GetRotationReturnsDegrees := by
  intro s ⟨htodo, hprog⟩ hext
  obtain ⟨-, v, hrun⟩ := (performs_getrot (s.fresh [])).sequence htodo hprog hext (ret := .rotation) rfl
  refine ⟨_, hrun, ?_, rfl, rfl, rfl, rfl⟩
  simp [resultOf, keepDegrees, State.fresh]

/-! ### The port operations -/

theorem recordOffsetOk_eq_false {off : Nat} (h : off % 2 = 1 ∨ 126 < off) : recordOffsetOk off = false :=
  Bool.eq_false_iff.2 fun hok => by
    have hrange := recordOffsetOk_iff.1 hok
    omega

/-- Settles O39: the record is written, or the operation fails, or its offset is refused. -/
theorem writeRecordMeaning : Obligations.WriteRecordMeaning := by
  refine ⟨fun off p s rest heven hle henv => ?_, fun off p s landed rest heven hle henv => ?_, fun off p s h => ?_⟩
  · refine ⟨_, portWriteRecord_served p (recordOffsetOk_iff.2 ⟨heven, hle⟩) henv, rfl, ?_, ?_, fun a hlow hhigh => ?_⟩
    · exact (byteAt_record s.mem off p off).trans (if_pos rfl)
    · exact (byteAt_record s.mem off p (off + 1)).trans ((if_neg (by omega)).trans (if_pos rfl))
    · exact (byteAt_record s.mem off p a).trans ((if_neg hlow).trans (if_neg hhigh))
  · exact ⟨_, portWriteRecord_unavailable p (recordOffsetOk_iff.2 ⟨heven, hle⟩) henv, rfl, rfl, rfl, rfl⟩
  · exact portWriteRecord_refused p s (recordOffsetOk_eq_false h)

/-- Settles O40: the copy is the frame as it stands, or nothing is held. -/
theorem readAllMeaning : Obligations.ReadAllMeaning := by
  refine ⟨fun s rest henv => ?_, fun s landed rest henv => ?_⟩
  · obtain ⟨buf, hbuf⟩ : ∃ buf, readFrame s.mem = buf := ⟨_, rfl⟩
    refine ⟨_, portReadAll_served hbuf henv, rfl, fun a h => ?_, fun off heven => ?_⟩
    · simp only [State.setScratch_scratch, ← hbuf, readFrame_get]
    · simp only [State.setScratch_scratch, ← hbuf, bufRecord_readFrame s.mem off heven]
  · exact ⟨_, portReadAll_unavailable henv, rfl, rfl, rfl, rfl⟩

/-- Settles O41: every byte is new, or those that the outcome says. -/
theorem writeAllMeaning : Obligations.WriteAllMeaning := by
  refine ⟨fun buf s rest henv => ?_, fun buf s landed rest henv => ?_⟩
  · have hstep : portWriteAll buf s = .next ((s.setEnv rest).setMem (writeFrame s.mem buf)) := by
      simp [portWriteAll, takeOutcome_script henv]
    exact ⟨_, hstep, rfl, fun a h => byteAt_writeFrame s.mem buf a h⟩
  · have hstep : portWriteAll buf s =
        .next (stop .deviceUnavailable ((s.setEnv rest).setMem (writeLanded s.mem buf landed))) := by
      simp [portWriteAll, takeOutcome_script henv]
    exact ⟨_, hstep, rfl, rfl, fun a h => byteAt_writeLanded s.mem buf landed ⟨a, h⟩⟩

/-- Two bytes, low one first, are a pixel (20_memory R35). -/
theorem ofNat_littleEndian_pair (lo hi : Byte) : BitVec.ofNat 16 (littleEndian [lo, hi]) = hi ++ lo := by
  have hlo := lo.isLt
  apply BitVec.eq_of_toNat_eq
  rw [BitVec.toNat_append, ← Nat.shiftLeft_add_eq_or_of_lt hlo]
  simp only [littleEndian, BitVec.toNat_ofNat, Nat.shiftLeft_eq]
  omega

/-- Settles O42: the length is looked at first, then the offset; what is left is the access to a record. -/
theorem readAtWriteAtMeaning : Obligations.ReadAtWriteAtMeaning := by
  refine ⟨fun off s rest heven hle henv => ?_, fun off s h => ?_, fun off len s h => if_neg h, fun off lo hi s => ?_,
    fun off bytes s h => if_neg h⟩
  · have hstep : portReadAt off 2 s = .next ((s.setEnv rest).setScratch
        { s.scratch with packs := s.scratch.packs.set 0 (recordAt s.mem off) }) := by
      simp [portReadAt, Config.recordBytes, recordOffsetOk_iff.2 ⟨heven, hle⟩, takeOutcome_script henv]
    refine ⟨_, hstep, rfl, ?_⟩
    rw [← recordAt_eq]
    simp
  · simp [portReadAt, Config.recordBytes, recordOffsetOk_eq_false h]
  · rw [← ofNat_littleEndian_pair]
    exact if_pos rfl

end Sys2Proof.Machine
end

section
/-! Validation comes before I/O (45_host_sequences R88). Every expansion validates first: its steps up to some point
leave buffer, ROT and script alone, and from there on no step can be rejected, so that only the device can make the
sequence end in an error. -/

namespace Sys2Proof.Machine

/-! ### Steps that touch nothing -/

/-- The steps that leave the buffer, ROT and the script alone, however they end. -/
def MicroOp.TouchesNothing : MicroOp → Prop
  | .checkRotation _ | .boffr _ _ | .pack _ _ | .unpack _ | .getrot | .raise _ | .done _ => True
  | .setrot _ | .writePack _ | .writeRecord _ _ | .readAll | .writeAll _ | .readAt _ _ | .writeAt _ _ => False

/-- A step has touched nothing but the response and the scratch, or has ended the sequence. -/
inductive ChecksTo (s : State) : State → Prop where
  | goesOn (v : Option Rsp) (sc : Scratch) : ChecksTo s ((s.setRsp v).setScratch sc)
  | ends (v : Option Rsp) (r : Report) : ChecksTo s (finish r (s.setRsp v))

theorem issue_checksTo {i : Instr} (hwf : i.wellFormed = true) (hset : ∀ v, i ≠ .setrot v) {use : Res → State → State}
    (huse : ∀ res t, ∃ sc, use res t = t.setScratch sc) {s t : State} (h : issue i use s = .next t) :
    ChecksTo s t := by
  obtain ⟨r, w, _, rfl, hc, hcases⟩ := issue_cases i use s
  rw [command_encode hwf] at hc
  obtain rfl : r = s.rot := (exec_rot hc).resolve_right fun ⟨v, hv, _⟩ => hset v hv
  obtain hgo | ⟨e, he⟩ | hres := hcases
  · obtain ⟨sc, hsc⟩ := huse (resField w) ((s.setRot s.rot).setRsp (some w))
    rw [hgo, hsc] at h
    cases h
    exact .goesOn (some w) sc
  · rw [he] at h
    cases h
    exact .ends (some w) _
  · rw [hres] at h
    cases h
    exact .ends (some w) _

theorem microStep_checksTo {m : MicroOp} (hm : m.TouchesNothing) {s t : State} (h : microStep m s = .next t) :
    ChecksTo s t := by
  cases m with
  | checkRotation r =>
    simp only [microStep, microCheckRotation] at h
    split at h
    · cases h; exact .goesOn s.rsp s.scratch
    · cases h; exact .ends s.rsp _
  | boffr x y =>
    simp only [microStep, microBoffr] at h
    split at h
    case h_1 u v hx hy =>
      have hwf : (Instr.boffr u v).wellFormed = true :=
        Bool.and_eq_true_iff.2 ⟨(Arg.presentable_eq_some hx).2, (Arg.presentable_eq_some hy).2⟩
      exact issue_checksTo hwf nofun (fun _ _ => ⟨_, rfl⟩) h
    case h_2 => cases h; exact .ends s.rsp _
  | pack source k =>
    simp only [microStep, microPack] at h
    split at h
    case h_1 hc => exact issue_checksTo (RawColor.pack_wellFormed hc) nofun (fun _ _ => ⟨_, rfl⟩) h
    case h_2 => cases h; exact .ends s.rsp _
  | unpack k =>
    simp only [microStep, microUnpack] at h
    split at h
    case h_1 p _ => exact issue_checksTo (i := .unpack p) rfl nofun (fun _ _ => ⟨_, rfl⟩) h
    case h_2 => cases h
  | getrot => exact issue_checksTo (i := .getrot) rfl nofun (fun _ _ => ⟨_, rfl⟩) h
  | raise e => cases h; exact .ends s.rsp _
  | done r => cases h; exact .ends s.rsp _
  | setrot | writePack | writeRecord | readAll | writeAll | readAt | writeAt => exact hm.elim

/-! ### Steps that cannot be rejected -/

/-- The steps that end the sequence in no error but DeviceUnavailable. -/
def MicroOp.CannotBeRejected : MicroOp → Prop
  | .checkRotation r => r.rotation ≠ none
  | .boffr x y => CoordinatesValid x y
  | .pack (.given _) _ => False
  | .pack (.cell _) _ => True
  | .setrot r => r.rotation ≠ none
  | .raise _ => False
  | .unpack _ | .getrot | .done _ => True
  | .writePack _ | .writeRecord _ _ | .readAll | .writeAll _ | .readAt _ _ | .writeAt _ _ => True

/-- `t` has before it what `s` has, or has ended the sequence in progress; and it reports no error that `s` does not,
but DeviceUnavailable. -/
structure Accepts (s t : State) : Prop where
  todo : t.todo = s.todo ∨ t.todo = []
  program : t.program = s.program
  noExternalWriter : s.NoExternalWriter → t.NoExternalWriter
  report : ∀ e, t.report = some (.error e) → s.report = some (.error e) ∨ e = .deviceUnavailable

section
variable {s t u : State} {o : PortOutcome} {i : Interference}

theorem takeOutcome_accepts (h : takeOutcome s = (o, i, t)) : Accepts s t := by
  have hext (hs : s.NoExternalWriter) : t.NoExternalWriter := by
    have := (takeOutcome_noExternalWriter hs).2
    rwa [h] at this
  obtain ⟨env, draws, ht⟩ := takeOutcome_frame s
  rw [h] at ht
  obtain rfl : t = (s.setEnv env).setDraws draws := ht
  exact ⟨.inl rfl, rfl, hext, fun _ he => .inl he⟩

/-- Changes of the buffer and the scratch are no matter. -/
theorem Accepts.setMem (h : Accepts s t) (m : Memory) : Accepts s (t.setMem m) :=
  ⟨h.todo, h.program, h.noExternalWriter, h.report⟩

theorem Accepts.setScratch (h : Accepts s t) (sc : Scratch) : Accepts s (t.setScratch sc) :=
  ⟨h.todo, h.program, h.noExternalWriter, h.report⟩

theorem Accepts.unavailable (h : Accepts s t) : Accepts s (stop .deviceUnavailable t) :=
  ⟨.inr rfl, h.program, h.noExternalWriter, fun _ he => .inr (by cases he; rfl)⟩

theorem portWriteRecord_accepts {off : Nat} {p : Pixel} (h : portWriteRecord off p s = .next t) : Accepts s t := by
  cases hoff : recordOffsetOk off with
  | true =>
    obtain ⟨i, u, ho, hu⟩ | ⟨landed, i, u, ho, hu⟩ := portWriteRecord_cases p s hoff
    · rw [hu] at h; cases h; exact (takeOutcome_accepts ho).setMem _
    · rw [hu] at h; cases h; exact ((takeOutcome_accepts ho).setMem _).unavailable
  | false =>
    rw [portWriteRecord_refused p s hoff] at h
    cases h

theorem portReadAll_accepts (h : portReadAll s = .next t) : Accepts s t := by
  obtain ⟨i, u, ho, hu⟩ | ⟨landed, i, u, ho, hu⟩ := portReadAll_cases s
  · rw [hu] at h; cases h; exact ((takeOutcome_accepts ho).setMem _).setScratch _
  · rw [hu] at h; cases h; exact ((takeOutcome_accepts ho).setMem _).unavailable

theorem portWriteAll_accepts {buf : Vector Byte 128} (h : portWriteAll buf s = .next t) : Accepts s t := by
  obtain ⟨i, u, ho, hu⟩ | ⟨landed, i, u, ho, hu⟩ := portWriteAll_cases buf s
  · rw [hu] at h; cases h; exact (takeOutcome_accepts ho).setMem _
  · rw [hu] at h; cases h; exact ((takeOutcome_accepts ho).setMem _).unavailable

theorem portReadAt_accepts {off len : Nat} (h : portReadAt off len s = .next t) : Accepts s t := by
  by_cases hlen : len = 2
  · subst hlen
    cases hoff : recordOffsetOk off with
    | true =>
      obtain ⟨i, u, ho, hu⟩ | ⟨landed, i, u, ho, hu⟩ := portReadAt_cases s hoff
      · rw [hu] at h; cases h; exact ((takeOutcome_accepts ho).setMem _).setScratch _
      · rw [hu] at h; cases h; exact ((takeOutcome_accepts ho).setMem _).unavailable
    | false => simp [portReadAt, Config.recordBytes, hoff] at h
  · simp [portReadAt, Config.recordBytes, hlen] at h

theorem portWriteAt_accepts {off : Nat} {bytes : List Byte} (h : portWriteAt off bytes s = .next t) : Accepts s t := by
  unfold portWriteAt at h
  split at h
  · exact portWriteRecord_accepts h
  · cases h

end

theorem resultOf_ne_error (s : State) (r : Return) (e : ErrorKind) : resultOf s r ≠ .error e := by
  cases r <;> nofun

theorem microStep_accepts {m : MicroOp} (hm : m.CannotBeRejected) {s t : State} (h : microStep m s = .next t) :
    Accepts s t := by
  have hgoesOn {u : State} (htodo : u.todo = s.todo) (hprog : u.program = s.program) (henv : u.env = s.env)
      (hrep : u.report = s.report) : Accepts s u :=
    ⟨.inl htodo, hprog, fun hs e he => hs e (henv ▸ he), fun e he => .inl (hrep ▸ he)⟩
  cases m with
  | checkRotation r =>
    obtain ⟨rot, hrot⟩ := Option.ne_none_iff_exists'.1 hm
    simp only [microStep, microCheckRotation, hrot] at h
    cases h; exact hgoesOn rfl rfl rfl rfl
  | boffr x y =>
    obtain ⟨u, v, hu, hv, rfl, rfl⟩ := hm
    cases (microBoffr_valid hu hv s).symm.trans h; exact hgoesOn rfl rfl rfl rfl
  | pack source k =>
    cases source with
    | given c => exact hm.elim
    | cell j =>
      have hpack := microPack_valid (source := .cell j) (Color.validChannels s.scratch.frame[j]) (Color.toRaw_eq _) k
      cases hpack.symm.trans h
      exact hgoesOn rfl rfl rfl rfl
  | unpack k =>
    cases hrec : bufRecord s.scratch.buf s.scratch.off with
    | some p => cases (microUnpack_record hrec k).symm.trans h; exact hgoesOn rfl rfl rfl rfl
    | none =>
      simp only [microStep, microUnpack, hrec] at h
      cases h
  | setrot r =>
    obtain ⟨rot, hrot⟩ := Option.ne_none_iff_exists'.1 hm
    cases r with
    | int v => cases (microSetrot_legal hrot s).symm.trans h; exact hgoesOn rfl rfl rfl rfl
    | notInteger => cases hrot
  | getrot => cases (issue_getrot s).symm.trans h; exact hgoesOn rfl rfl rfl rfl
  | writePack k => exact portWriteRecord_accepts h
  | writeRecord off p => exact portWriteRecord_accepts h
  | readAll => exact portReadAll_accepts h
  | writeAll buf => exact portWriteAll_accepts h
  | readAt off len => exact portReadAt_accepts h
  | writeAt off bytes => exact portWriteAt_accepts h
  | raise e => exact hm.elim
  | done r =>
    cases h
    exact ⟨.inr rfl, rfl, id, fun e he => absurd (Option.some.inj he) (resultOf_ne_error s r e)⟩

/-! ### Expansions that validate first -/

/-- No step of the list can be rejected. -/
def NoneRejected (ops : List MicroOp) : Prop := ∀ m ∈ ops, m.CannotBeRejected

/-- Up to some point the steps of the list touch nothing, and from there on none can be rejected; or a rotation that is
none ends it. -/
inductive ValidatesFirst : List MicroOp → Prop where
  | accepted {ops : List MicroOp} (h : NoneRejected ops) : ValidatesFirst ops
  | check {m : MicroOp} {ops : List MicroOp} (hm : m.TouchesNothing) (h : ValidatesFirst ops) :
    ValidatesFirst (m :: ops)
  | badRotation {r : Arg} (hr : r.rotation = none) (ops : List MicroOp) : ValidatesFirst (.checkRotation r :: ops)

theorem ValidatesFirst.append {ops ops' : List MicroOp} (h : ∀ m ∈ ops, m.TouchesNothing) (h' : ValidatesFirst ops') :
    ValidatesFirst (ops ++ ops') := by
  induction ops with
  | nil => exact h'
  | cons m ops ih =>
    obtain ⟨hm, hops⟩ := List.forall_mem_cons.1 h
    exact .check hm (ih hops)

section
variable {m : MicroOp} {ops ops' : List MicroOp}

theorem NoneRejected.nil : NoneRejected [] := nofun

theorem NoneRejected.cons (hm : m.CannotBeRejected) (h : NoneRejected ops) : NoneRejected (m :: ops) :=
  List.forall_mem_cons.2 ⟨hm, h⟩

theorem NoneRejected.append (h : NoneRejected ops) (h' : NoneRejected ops') : NoneRejected (ops ++ ops') :=
  List.forall_mem_append.2 ⟨h, h'⟩

theorem NoneRejected.flatMap {f : Fin 64 → List MicroOp} (h : ∀ k, NoneRejected (f k)) (cells : List (Fin 64)) :
    NoneRejected (cells.flatMap f) :=
  List.forall_mem_flatMap.2 fun k _ => h k

end

theorem noneRejected_done (r : Return) : NoneRejected [.done r] := .cons trivial .nil

theorem boffrCell_cannotBeRejected (k : Fin 64) : (boffrCell k).CannotBeRejected :=
  ⟨_, _, cellX_le k, cellY_le k, rfl, rfl⟩

theorem noneRejected_readFrameOps : NoneRejected readFrameOps :=
  .cons trivial (.flatMap (fun k => .cons (boffrCell_cannotBeRejected k) (.cons (m := .unpack k) trivial .nil)) _)

theorem noneRejected_writeFrameOps (order : List (Fin 64)) : NoneRejected (writeFrameOps order) :=
  .flatMap (fun k => .cons (boffrCell_cannotBeRejected k) (.cons (m := .writePack k) trivial .nil)) _

theorem noneRejected_rewriteFrameOps (order : List (Fin 64)) (src : Fin 64 → Fin 64) :
    NoneRejected (rewriteFrameOps order src) :=
  .append (List.forall_mem_map.2 fun _ _ => trivial) (noneRejected_writeFrameOps order)

theorem noneRejected_writeFrame_done (order : List (Fin 64)) :
    NoneRejected (writeFrameOps order ++ [.done .nothing]) :=
  (noneRejected_writeFrameOps order).append (noneRejected_done _)

theorem setGridOps_validatesFirst (p : Params) (rows : List (List RawColor)) : ValidatesFirst (setGridOps p rows) := by
  unfold setGridOps
  split
  · rw [List.append_assoc]
    exact .append (List.forall_mem_map.2 fun _ _ => trivial) (.accepted (noneRejected_writeFrame_done _))
  · refine .append ?_ (.check trivial (.accepted .nil))
    split
    · exact nofun
    · exact List.forall_mem_map.2 fun _ _ => trivial

theorem setGeneratorOps_validatesFirst {p : Params} (hgen : p.genValidate = .eager) (cells : Vector RawColor 64) :
    ValidatesFirst (setGeneratorOps p cells) := by
  simp only [setGeneratorOps, hgen, List.append_assoc]
  exact .append (List.forall_mem_map.2 fun _ _ => trivial) (.accepted (noneRejected_writeFrame_done _))

theorem setPixelOps_validatesFirst (p : Params) (x y : Arg) (color : RawColor) :
    ValidatesFirst (setPixelOps p x y color) := by
  have hwrite : ValidatesFirst [.writePack 0, .done .nothing] := .accepted (.cons trivial (noneRejected_done _))
  unfold setPixelOps
  split
  · exact .check trivial (.check trivial hwrite)
  · exact .check trivial (.check trivial hwrite)

theorem setRotation_validatesFirst (p : Params) (r : Arg) : ValidatesFirst (expand p (.setRotation r)) := by
  cases hr : r.rotation with
  | none => exact .badRotation hr _
  | some rot =>
    have hlegal : r.rotation ≠ none := by rw [hr]; exact Option.some_ne_none rot
    exact .accepted (.append (.append (.cons hlegal noneRejected_readFrameOps)
      (.cons hlegal (noneRejected_rewriteFrameOps _ _))) (noneRejected_done _))

theorem expand_validatesFirst {p : Params} (hgen : p.genValidate = .eager) (op : HostOp) :
    ValidatesFirst (expand p op) := by
  cases op with
  | writeRecord | readAll | writeAll | readAt | writeAt | getRotation =>
    exact .accepted (.cons trivial (noneRejected_done _))
  | getPixel x y => exact .check trivial (.accepted (.cons trivial (.cons trivial (noneRejected_done _))))
  | setPixel x y color => exact setPixelOps_validatesFirst p x y color
  | getPixels => exact .accepted (noneRejected_readFrameOps.append (noneRejected_done _))
  | setPixels source =>
    cases source with
    | grid rows => exact setGridOps_validatesFirst p rows
    | generator cells => exact setGeneratorOps_validatesFirst hgen cells
  | clear => exact setGridOps_validatesFirst p _
  | setRotation r => exact setRotation_validatesFirst p r
  | flipH | flipV =>
    exact .accepted ((noneRejected_readFrameOps.append (noneRejected_rewriteFrameOps _ _)).append (noneRejected_done _))

/-! ### Along a run -/

/-- A run of more than no steps has a first. -/
theorem State.exists_step {s u : State} {n : Nat} (h : s.after (n + 1) = .next u) : ∃ t, step s = .next t := by
  cases hs : step s with
  | next t => exact ⟨t, rfl⟩
  | fault f =>
    simp only [State.after, Host.Core.run, show Sys2Proof.core.step s = .fault f from hs] at h
    cases h
  | refused r =>
    simp only [State.after, Host.Core.run, show Sys2Proof.core.step s = .refused r from hs] at h
    cases h

/-- Buffer, ROT, script and draws of `t` are those of `s`. -/
structure Untouched (s t : State) : Prop where
  mem : t.mem = s.mem
  rot : t.rot = s.rot
  env : t.env = s.env
  draws : t.draws = s.draws

/-- Where a sequence taken up in `s` stands in `t`: it has touched nothing yet and validates first what it has before
it, or none of its steps can be rejected any more and it has reported no error but DeviceUnavailable. -/
inductive Stage (s t : State) : Prop where
  | validating (htouch : Untouched s t) (htodo : ValidatesFirst t.todo)
  | working (htodo : NoneRejected t.todo) (hreport : ∀ e, t.report = some (.error e) → e = .deviceUnavailable)

/-- The sequence that was taken up in `s` is all that the host has before it in `t`. -/
structure Underway (s t : State) : Prop where
  program : t.program = []
  noExternalWriter : t.NoExternalWriter
  stage : Stage s t

section
variable {s t u : State}

theorem step_idle (hext : t.NoExternalWriter) (htodo : t.todo = []) (hprog : t.program = []) :
    step t = .next (quiet t) :=
  (agentStep_host (s := quiet t) hext.none_due).trans (by simp [hostStep, htodo, hprog])

/-- A step that touches nothing, of a sequence that has touched nothing. -/
theorem ChecksTo.underway (hprog : t.program = []) (hext : t.NoExternalWriter) (htouch : Untouched s t)
    (htodo : ValidatesFirst t.todo) (h : ChecksTo t u) : Underway s u := by
  obtain ⟨hmem, hrot, henv, hdraws⟩ := htouch
  cases h with
  | goesOn v sc => exact ⟨hprog, hext, .validating ⟨hmem, hrot, henv, hdraws⟩ htodo⟩
  | ends v r => exact ⟨hprog, hext, .validating ⟨hmem, hrot, henv, hdraws⟩ (.accepted .nil)⟩

/-- A step that cannot be rejected, of a sequence none of whose steps can be any more. -/
theorem Accepts.underway (hprog : t.program = []) (hext : t.NoExternalWriter) (hreport : t.report = none)
    (htodo : NoneRejected t.todo) (h : Accepts t u) : Underway s u := by
  obtain ⟨htodo', hprog', hext', hreport'⟩ := h
  refine ⟨hprog'.trans hprog, hext' hext, .working ?_ fun e he => ?_⟩
  · obtain hsame | hend := htodo'
    · exact hsame ▸ htodo
    · exact hend ▸ .nil
  · exact (hreport' e he).resolve_left (by rw [hreport]; nofun)

theorem Underway.step (h : Underway s t) (hstep : step t = .next u) : Underway s u := by
  obtain ⟨hprog, hext, hstage⟩ := h
  cases htodo : t.todo with
  | nil =>
    cases (step_idle hext htodo hprog).symm.trans hstep
    have hnone : NoneRejected (quiet t).todo := htodo ▸ .nil
    cases hstage with
    | validating htouch _ =>
      exact ⟨hprog, hext, .validating ⟨htouch.mem, htouch.rot, htouch.env, htouch.draws⟩ (.accepted hnone)⟩
    | working _ _ => exact ⟨hprog, hext, .working hnone nofun⟩
  | cons m rest =>
    rw [step_micro hext htodo] at hstep
    have haccepts (hnone : NoneRejected (m :: rest)) : Underway s u := by
      obtain ⟨hm, hrest⟩ := List.forall_mem_cons.1 hnone
      exact (microStep_accepts hm hstep).underway (t := t.facing rest) hprog hext rfl hrest
    cases hstage with
    | validating htouch hfirst =>
      have htouch' : Untouched s (t.facing rest) := ⟨htouch.mem, htouch.rot, htouch.env, htouch.draws⟩
      rw [htodo] at hfirst
      cases hfirst with
      | accepted hnone => exact haccepts hnone
      | check hm hrest => exact (microStep_checksTo hm hstep).underway (t := t.facing rest) hprog hext htouch' hrest
      | badRotation hr _ =>
        simp only [microStep, microCheckRotation, hr] at hstep
        cases hstep
        exact (ChecksTo.ends none (.error .invalidRotation)).underway (t := t.facing []) hprog hext
          ⟨htouch.mem, htouch.rot, htouch.env, htouch.draws⟩ (.accepted .nil)
    | working hnone _ => exact haccepts (htodo ▸ hnone)

theorem Underway.after (h : Underway s t) {n : Nat} (hrun : t.after n = .next u) : Underway s u := by
  induction n generalizing t with
  | zero => cases hrun; exact h
  | succ n ih =>
    obtain ⟨t', hstep⟩ := State.exists_step hrun
    exact ih (h.step hstep) ((State.after_succ hstep n).symm.trans hrun)

end

/-- Settles O43: the sequence is under way from the step on that takes it up, so it ends in a validation error only
where it has touched nothing. -/
theorem validationComesBeforeIO : Obligations.ValidationComesBeforeIO := by
  intro s t op n e ⟨htodo, hprog⟩ hext hgen hrun hreport hne
  cases n with
  | zero => cases hrun; exact ⟨rfl, rfl, rfl, rfl⟩
  | succ n =>
    have hunderway : Underway s ((s.fresh []).facing (expand s.params op)) :=
      ⟨rfl, hext, .validating ⟨rfl, rfl, rfl, rfl⟩ (expand_validatesFirst hgen op)⟩
    obtain ⟨-, -, ⟨htouch, -⟩ | ⟨-, hdevice⟩⟩ :=
      hunderway.after ((State.after_succ (step_begin htodo hprog hext) n).symm.trans hrun)
    · exact ⟨htouch.mem, htouch.rot, htouch.env, htouch.draws⟩
    · exact absurd (hdevice e hreport) hne

end Sys2Proof.Machine
end

section
/-! Errors at the block (60_exceptions R114, R117): a failing command leaves its response behind and nothing else, which
no later command looks at; and the idle step (R125). -/

namespace Sys2Proof.Machine

/-! ### Failing commands (60_exceptions R114) -/

/-- A command is answered with OK, after it may have written ROT, or it raises an error in the state it was given. -/
theorem exec_answers (i : Instr) (s : State) :
    (∃ rot res, exec i s = respond res (s.setRot rot)) ∨ ∃ e, exec i s = raise e s := by
  cases i with
  | pack r g b =>
    simp only [exec, execPack]
    split
    · exact .inl ⟨s.rot, _, rfl⟩
    · exact .inr ⟨_, rfl⟩
  | unpack p => exact .inl ⟨s.rot, _, rfl⟩
  | boff x y rot =>
    simp only [exec, execBoff]
    split
    · exact .inl ⟨s.rot, _, rfl⟩
    · exact .inr ⟨_, rfl⟩
  | boffr x y =>
    simp only [exec, execBoffr]
    split
    · exact .inl ⟨s.rot, _, rfl⟩
    · exact .inr ⟨_, rfl⟩
  | setrot rot =>
    simp only [exec, execSetrot]
    split
    · exact .inl ⟨_, _, rfl⟩
    · exact .inr ⟨_, rfl⟩
  | getrot => exact .inl ⟨s.rot, _, rfl⟩

/-- The same for a command word: one that is no command raises IllegalCommand (30_encoding R62). -/
theorem command_answers (w : Cmd) (s : State) :
    (∃ rot res, command w s = respond res (s.setRot rot)) ∨ ∃ e, command w s = raise e s := by
  cases hd : decode w with
  | ok i => rw [command_of_decode hd]; exact exec_answers i s
  | error e => exact .inr ⟨_, command_of_reject hd s⟩

/-- A response whose status is not OK is that of an error, and the state is otherwise the one before. -/
theorem command_failed {w : Cmd} {s t : State} {r : Rsp} (h : command w s = .next t) (hr : t.rsp = some r)
    (hst : stField r ≠ 0) : ∃ e, r = errorWord e ∧ t = s.setRsp (some r) := by
  obtain ⟨rot, res, hc⟩ | ⟨e, hc⟩ := command_answers w s
  · rw [hc] at h
    cases h
    cases hr
    exact absurd (stField_responseWord 0 res) hst
  · rw [hc] at h
    cases h
    cases hr
    exact ⟨e, rfl, rfl⟩

/-- No command reads the response port, and each one overwrites it (10_state R23). -/
theorem exec_setRsp (i : Instr) (s : State) (v : Option Rsp) : exec i (s.setRsp v) = exec i s := by
  cases i with
  | pack | unpack | boff | boffr | setrot | getrot => rfl

theorem command_setRsp (w : Cmd) (s : State) (v : Option Rsp) : command w (s.setRsp v) = command w s := by
  cases hd : decode w with
  | ok i => rw [command_of_decode hd, command_of_decode hd, exec_setRsp]
  | error e => rw [command_of_reject hd, command_of_reject hd]; rfl

/-- Settles O23: a failing command has raised an error, which changes the response alone, and no command reads that. -/
theorem errorsChangeNothing : Obligations.ErrorsChangeNothing := by
  intro w s t r h hr hst
  obtain ⟨e, rfl, rfl⟩ := command_failed h hr hst
  exact ⟨resField_errorWord e, rfl, fun w' => command_setRsp w' s _⟩

/-! ### BOFF with the rotation checked first (60_exceptions R117) -/

/-- The four legal operands, each with its rotation (30_encoding R54). -/
theorem Rotation.exists_ofDegrees {v : Int} (h : v = 0 ∨ v = 90 ∨ v = 180 ∨ v = 270) :
    ∃ r, Rotation.ofDegrees v = some r := by
  obtain rfl | rfl | rfl | rfl := h
  · exact ⟨.r0, rfl⟩
  · exact ⟨.r90, rfl⟩
  · exact ⟨.r180, rfl⟩
  · exact ⟨.r270, rfl⟩

/-- Where the rotation is checked first, BOFF reports a bad one whatever the coordinates are. -/
theorem exec_boff_rotationFirst {x y rot : Int} {s : State} (hfirst : s.params.boffCoordinateFirst = false)
    (hrot : Rotation.ofDegrees rot = none) :
    exec (.boff x y rot) s = .next { s with rsp := some 0x3000_0000 } := by
  cases hxy : coordinateOk x && coordinateOk y with
  | true => exact exec_boff_invalidRotation s hxy hrot
  | false =>
    rw [exec, execBoff, boffCheck, hxy, hrot, hfirst, ← errorWord_invalidRotation]
    rfl

/-- Settles O14: the coordinate is bad, so the rotation decides which of the two errors is reported. -/
theorem boffOtherErrorOrder : Obligations.BoffOtherErrorOrder := by
  intro x y rot s hxy hfirst answer
  by_cases hlegal : rot = 0 ∨ rot = 90 ∨ rot = 180 ∨ rot = 270
  · have hanswer : answer = 0x2000_0000 := if_pos hlegal
    rw [hanswer]
    exact exec_boff_invalidCoordinate s hxy (.inl (Rotation.exists_ofDegrees hlegal))
  · have hanswer : answer = 0x3000_0000 := if_neg hlegal
    obtain ⟨h0, h90, h180, h270⟩ : rot ≠ 0 ∧ rot ≠ 90 ∧ rot ≠ 180 ∧ rot ≠ 270 := by simpa only [not_or] using hlegal
    rw [hanswer]
    exact exec_boff_rotationFirst hfirst (Rotation.ofDegrees_eq_none h0 h90 h180 h270)

/-! ### With nothing to do (60_exceptions R125) -/

theorem hostStep_idle {s : State} (htodo : s.todo = []) (hprog : s.program = []) : hostStep s = .next s := by
  simp [hostStep, htodo, hprog]

/-- Settles O30: no external write is due, so the host moves, and it idles. -/
theorem stepIdles : Obligations.StepIdles := fun s htodo hprog henv =>
  (agentStep_host (s := quiet s) henv).trans (hostStep_idle (s := quiet s) htodo hprog)

end Sys2Proof.Machine
end

section
/-! A later start on the device as it stands (70_reset R126, R127), and the end of every sequence (R138). Each step of
the host takes one step off the sequence in progress and each external write one entry off the script, which no step
makes longer; and the last step of every expansion reports. -/

namespace Sys2Proof.Machine

/-! ### A later start (70_reset R126, R127) -/

/-- At rotation 0 the records are the pixels in row-major order (41_rotator R77). -/
theorem byteOffset_r0 (x y : Nat) : byteOffset x y .r0 = 16 * y + 2 * x := by
  simp only [byteOffset, idx]
  omega

/-- Settles O33: a start keeps the buffer and sets ROT to 0 degrees, so a pixel is read at its offset there. -/
theorem restartKeepsBuffer : Obligations.RestartKeepsBuffer := by
  intro s
  refine ⟨rfl, rfl, rfl, fun _ => rfl, fun x y _ _ => ?_⟩
  rw [← byteOffset_r0]
  rfl

/-! ### A step of a sequence goes on to the next one, or reports -/

/-- From `s` the host has gone on to `t`, with the same steps before it and no more of the script, or it has just
reported. -/
inductive Advances (s : State) : State → Prop where
  | goesOn {t : State} (htodo : t.todo = s.todo) (henv : t.env.length ≤ s.env.length) : Advances s t
  | reports {t : State} {r : Report} (hreport : t.report = some r) : Advances s t

/-- Taking an outcome uses up an entry of the script, or none. -/
theorem takeOutcome_todo_env (s : State) :
    (takeOutcome s).2.2.todo = s.todo ∧ (takeOutcome s).2.2.env.length ≤ s.env.length := by
  unfold takeOutcome
  split
  case h_1 o rest he => exact ⟨rfl, by simp [he]⟩
  case h_2 o i rest he => exact ⟨rfl, by simp [he]⟩
  case h_3 => exact ⟨rfl, Nat.le_refl _⟩

section
variable {s t u : State} {o : PortOutcome} {i : Interference}

theorem ChecksTo.advances (h : ChecksTo s t) : Advances s t := by
  cases h with
  | goesOn => exact .goesOn rfl (Nat.le_refl _)
  | ends => exact .reports rfl

/-- A port operation that has been served goes on. -/
theorem takeOutcome_advances (ho : takeOutcome s = (o, i, u)) (htodo : t.todo = u.todo) (henv : t.env = u.env) :
    Advances s t := by
  obtain ⟨htodo', henv'⟩ := takeOutcome_todo_env s
  rw [ho] at htodo' henv'
  exact .goesOn (htodo.trans htodo') (henv ▸ henv')

theorem portWriteRecord_advances {off : Nat} {p : Pixel} (h : portWriteRecord off p s = .next t) : Advances s t := by
  cases hoff : recordOffsetOk off with
  | true =>
    obtain ⟨i, u, ho, hu⟩ | ⟨landed, i, u, -, hu⟩ := portWriteRecord_cases p s hoff
    · cases hu.symm.trans h; exact takeOutcome_advances ho rfl rfl
    · cases hu.symm.trans h; exact .reports rfl
  | false => cases (portWriteRecord_refused p s hoff).symm.trans h

theorem portReadAll_advances (h : portReadAll s = .next t) : Advances s t := by
  obtain ⟨i, u, ho, hu⟩ | ⟨landed, i, u, -, hu⟩ := portReadAll_cases s
  · cases hu.symm.trans h; exact takeOutcome_advances ho rfl rfl
  · cases hu.symm.trans h; exact .reports rfl

theorem portWriteAll_advances {buf : Vector Byte 128} (h : portWriteAll buf s = .next t) : Advances s t := by
  obtain ⟨i, u, ho, hu⟩ | ⟨landed, i, u, -, hu⟩ := portWriteAll_cases buf s
  · cases hu.symm.trans h; exact takeOutcome_advances ho rfl rfl
  · cases hu.symm.trans h; exact .reports rfl

theorem portReadAt_advances {off len : Nat} (h : portReadAt off len s = .next t) : Advances s t := by
  by_cases hlen : len = 2
  · subst hlen
    cases hoff : recordOffsetOk off with
    | true =>
      obtain ⟨i, u, ho, hu⟩ | ⟨landed, i, u, -, hu⟩ := portReadAt_cases s hoff
      · cases hu.symm.trans h; exact takeOutcome_advances ho rfl rfl
      · cases hu.symm.trans h; exact .reports rfl
    | false => simp [portReadAt, Config.recordBytes, hoff] at h
  · simp [portReadAt, Config.recordBytes, hlen] at h

theorem portWriteAt_advances {off : Nat} {bytes : List Byte} (h : portWriteAt off bytes s = .next t) :
    Advances s t := by
  unfold portWriteAt at h
  split at h
  · exact portWriteRecord_advances h
  · cases h

theorem microSetrot_advances {r : Arg} (h : microSetrot r s = .next t) : Advances s t := by
  unfold microSetrot at h
  split at h
  case h_1 v _ =>
    obtain ⟨_, _, u, rfl, -, hgo | ⟨e, he⟩ | hres⟩ := issue_cases (.setrot v) keepNothing s
    · cases hgo.symm.trans h; exact .goesOn rfl (Nat.le_refl _)
    · cases he.symm.trans h; exact .reports rfl
    · cases hres.symm.trans h; exact .reports rfl
  case h_2 => cases h; exact .reports rfl

theorem microStep_advances {m : MicroOp} (h : microStep m s = .next t) : Advances s t := by
  have hchecks (hm : m.TouchesNothing) : Advances s t := (microStep_checksTo hm h).advances
  cases m with
  | checkRotation | boffr | pack | unpack | getrot | raise | done => exact hchecks trivial
  | setrot r => exact microSetrot_advances h
  | writePack k => exact portWriteRecord_advances h
  | writeRecord off p => exact portWriteRecord_advances h
  | readAll => exact portReadAll_advances h
  | writeAll buf => exact portWriteAll_advances h
  | readAt off len => exact portReadAt_advances h
  | writeAt off bytes => exact portWriteAt_advances h

end

/-! ### Expansions end with a step that reports -/

/-- The steps that end a sequence whatever happens. -/
def MicroOp.IsLast : MicroOp → Prop
  | .raise _ | .done _ => True
  | _ => False

theorem MicroOp.IsLast.reports {m : MicroOp} (hm : m.IsLast) {s t : State} (h : microStep m s = .next t) :
    ∃ r, t.report = some r := by
  cases m with
  | raise e => cases h; exact ⟨_, rfl⟩
  | done r => cases h; exact ⟨_, rfl⟩
  | checkRotation | boffr | pack | unpack | setrot | getrot | writePack | writeRecord | readAll | writeAll | readAt
  | writeAt => exact hm.elim

/-- The list ends with a step that reports. -/
inductive EndsReporting : List MicroOp → Prop where
  | last {m : MicroOp} (hm : m.IsLast) : EndsReporting [m]
  | cons (m : MicroOp) {ops : List MicroOp} (h : EndsReporting ops) : EndsReporting (m :: ops)

theorem endsReporting_append (ops : List MicroOp) {m : MicroOp} (hm : m.IsLast) : EndsReporting (ops ++ [m]) := by
  induction ops with
  | nil => exact .last hm
  | cons m' ops ih => exact .cons m' ih

theorem endsReporting_setPixelOps (p : Params) (x y : Arg) (color : RawColor) :
    EndsReporting (setPixelOps p x y color) := by
  unfold setPixelOps
  split
  · exact endsReporting_append [_, _, _] trivial
  · exact endsReporting_append [_, _, _] trivial

theorem endsReporting_setGridOps (p : Params) (rows : List (List RawColor)) : EndsReporting (setGridOps p rows) := by
  unfold setGridOps
  split
  · exact endsReporting_append _ trivial
  · exact endsReporting_append _ trivial

theorem endsReporting_setGeneratorOps (p : Params) (cells : Vector RawColor 64) :
    EndsReporting (setGeneratorOps p cells) := by
  unfold setGeneratorOps
  split
  · exact endsReporting_append _ trivial
  · exact endsReporting_append _ trivial

theorem endsReporting_expand (p : Params) (op : HostOp) : EndsReporting (expand p op) := by
  cases op with
  | writeRecord | readAll | writeAll | readAt | writeAt | getRotation => exact endsReporting_append [_] trivial
  | getPixel x y => exact endsReporting_append [_, _, _] trivial
  | setPixel x y color => exact endsReporting_setPixelOps p x y color
  | setPixels source =>
    cases source with
    | grid rows => exact endsReporting_setGridOps p rows
    | generator cells => exact endsReporting_setGeneratorOps p cells
  | clear => exact endsReporting_setGridOps p _
  | getPixels | setRotation | flipH | flipV => exact endsReporting_append _ trivial

/-! ### Along a run -/

/-- A sequence that is about to be taken up, or is in progress, has no more than `k` steps of the machine before it: one
to take it up, one for each of its steps, one for each entry of the script. -/
inductive Due (k : Nat) (s : State) : Prop where
  | starting {op : HostOp} (hstart : s.Starts op) (hk : 1 + (expand s.params op).length + s.env.length ≤ k)
  | running (hops : EndsReporting s.todo) (hk : s.todo.length + s.env.length ≤ k)

section
variable {s t : State} {k : Nat}

theorem not_due_zero : ¬Due 0 s := by
  rintro (⟨hstart, hk⟩ | ⟨hops, hk⟩)
  · omega
  · cases htodo : s.todo with
    | nil => rw [htodo] at hops; cases hops
    | cons m rest => simp [htodo] at hk

/-- An external write takes an entry off the script. -/
theorem Due.after_externalWrite (h : Due (k + 1) s) {a : BitVec 7} {v : Byte} {rest : List EnvEvent}
    (henv : s.env = .external a v :: rest) : Due k (externalWrite a v ((quiet s).setEnv rest)) := by
  have hlen : s.env.length = rest.length + 1 := by rw [henv, List.length_cons]
  cases h with
  | starting hstart hk =>
    exact .starting hstart (show 1 + (expand s.params _).length + rest.length ≤ k by omega)
  | running hops hk =>
    exact .running hops (show s.todo.length + rest.length ≤ k by omega)

/-- A step of the host takes the sequence up, or takes a step off it, or reports. -/
theorem Due.after_hostStep (h : Due (k + 1) s) (hstep : hostStep s = .next t) : (∃ r, t.report = some r) ∨ Due k t := by
  cases h with
  | @starting op hstart hk =>
    obtain ⟨htodo, hprog⟩ := hstart
    cases (hostStep_sequence htodo hprog).symm.trans hstep
    exact .inr (.running (endsReporting_expand s.params op)
      (show (expand s.params op).length + s.env.length ≤ k by omega))
  | running hops hk =>
    cases htodo : s.todo with
    | nil => rw [htodo] at hops; cases hops
    | cons m rest =>
      rw [hostStep_micro htodo] at hstep
      rw [htodo] at hops
      rw [htodo, List.length_cons] at hk
      cases hops with
      | last hm => exact .inl (hm.reports hstep)
      | cons _ hrest =>
        cases microStep_advances hstep with
        | goesOn htodo' henv =>
          rw [State.setTodo_todo] at htodo'
          rw [State.setTodo_env] at henv
          refine .inr (.running (htodo' ▸ hrest) ?_)
          rw [htodo']
          omega
        | reports hreport => exact .inl ⟨_, hreport⟩

theorem Due.after_step (h : Due (k + 1) s) (hstep : step s = .next t) : (∃ r, t.report = some r) ∨ Due k t := by
  obtain ⟨a, v, rest, henv, hext⟩ | hhost := step_cases s
  · cases hext.symm.trans hstep
    exact .inr (h.after_externalWrite henv)
  · rw [hhost] at hstep
    have hquiet : Due (k + 1) (quiet s) := by
      cases h with
      | starting hstart hk => exact .starting hstart hk
      | running hops hk => exact .running hops hk
    exact hquiet.after_hostStep hstep

/-- What a safe system has before it is over, and reported, when it is due. -/
theorem Due.reports (h : Due k s) (hsafe : s.Safe) :
    ∃ n t r, 0 < n ∧ n ≤ k ∧ s.after n = .next t ∧ t.report = some r := by
  induction k generalizing s with
  | zero => exact absurd h not_due_zero
  | succ k ih =>
    obtain ⟨t, hstep, hsafe'⟩ := safeSystemNeverStops s hsafe
    obtain ⟨r, hr⟩ | hdue := h.after_step hstep
    · exact ⟨1, t, r, Nat.one_pos, Nat.succ_le_succ (Nat.zero_le k), State.after_succ hstep 0, hr⟩
    · obtain ⟨n, u, r, -, hn, hrun, hr⟩ := ih hdue hsafe'
      exact ⟨n + 1, u, r, Nat.succ_pos n, Nat.succ_le_succ hn, (State.after_succ hstep n).trans hrun, hr⟩

end

/-! ### How long the expansions are -/

section
variable {p : Params} (hwf : p.wf)
include hwf

/-- A grid of the right shape: 64 PACKs, 64 BOFFRs, 64 writes and the return. -/
theorem length_setGridOps {rows : List (List RawColor)} (hlen : rows.length = 8)
    (hrows : ∀ row ∈ rows, row.length = 8) : (setGridOps p rows).length = 193 := by
  simp [setGridOps, gridShapeOk_iff.2 ⟨hlen, hrows⟩, length_flatten_grid hlen hrows, length_writeFrameOps, hwf.1,
    -List.length_flatten]

theorem length_setGeneratorOps (cells : Vector RawColor 64) : (setGeneratorOps p cells).length = 193 := by
  cases hgen : p.genValidate with
  | eager => simp [setGeneratorOps, hgen, length_writeFrameOps, hwf.1]
  | lazy => simp [setGeneratorOps, hgen, List.length_flatMap, hwf.1]

/-- The check, 129 steps to read the Frame, the SETROT, 192 steps to write it and the return. -/
theorem length_expand_setRotation (r : Arg) : (expand p (.setRotation r)).length = 324 := by
  simp [expand, length_readFrameOps, length_rewriteFrameOps hwf]

theorem length_expand_le (op : HostOp)
    (hshape : ∀ rows, op = .setPixels (.grid rows) → rows.length = 8 ∧ ∀ row ∈ rows, row.length = 8) :
    (expand p op).length ≤ 324 := by
  cases op with
  | writeRecord | readAll | writeAll | readAt | writeAt | getPixel | getRotation => simp [expand]
  | setPixel x y color =>
    simp only [expand, setPixelOps]
    split
    · simp
    · simp
  | getPixels => simp [expand, length_readFrameOps]
  | setPixels source =>
    cases source with
    | grid rows =>
      obtain ⟨hlen, hrows⟩ := hshape rows rfl
      rw [expand, length_setGridOps hwf hlen hrows]
      decide
    | generator cells =>
      rw [expand, length_setGeneratorOps hwf]
      decide
  | clear =>
    rw [expand, length_setGridOps hwf List.length_replicate fun row hrow =>
      List.eq_of_mem_replicate hrow ▸ List.length_replicate]
    decide
  | setRotation r => exact (length_expand_setRotation hwf r).le
  | flipH | flipV => simp [expand, length_readFrameOps, length_rewriteFrameOps hwf]

end

/-- Settles O59: each step of the machine brings the report closer, and SETROTATION's expansion is the longest. -/
theorem sequencesEnd : Obligations.SequencesEnd :=
  ⟨fun _ _ hsafe hstart => (Due.starting hstart (Nat.le_refl _)).reports hsafe,
    fun _ op hwf hshape => length_expand_le hwf op hshape⟩

end Sys2Proof.Machine
end
